-- ==== Sys2Proof/Word.lean ====
section
/-!
DEFINITION. The words of the block (00_scope.md R6, R7): bytes, 16-bit request fields, 32-bit words and 7-bit bus
addresses, the two line levels, the two lines, and the two outcomes of a stretch wait.
-/

namespace Sys2Proof

/-- A byte: the unit of every bus transfer and of the staging buffer (R6, R47). -/
abbrev Byte := BitVec 8

/-- A u16: the value, index and length fields of a request (R6, R70). -/
abbrev Half := BitVec 16

/-- A u32: the capability word (R6, R154). -/
abbrev Word32 := BitVec 32

/-- A 7-bit I2C target address (R6, R50). -/
abbrev BusAddr := BitVec 7

/-- The two names of a line level (R9): `high` is released to the pull-up, `low` is driven low. -/
inductive Level where
  | low
  | high
  deriving DecidableEq, Repr, Inhabited

/-- The two bus lines (R8, R226). -/
inductive Line where
  | sda
  | scl
  deriving DecidableEq, Repr

/-- How a bounded wait for SCL ended (R103). -/
inductive Stretch where
  | released
  | timeout
  deriving DecidableEq, Repr, Inhabited

end Sys2Proof
end

