-- ==== Sys2Proof/Config.lean ====
section
/-!
DEFINITION. The implementation parameters of 00_scope.md R6 with this hardware's values, and the free values: what
the BUS and CLOCK agents answer where the state does not say (20_memory.md R46, 40_bus_timing.md R103).
-/

namespace Sys2Proof

/-- The two readings of "even-round the period" (R106, conflict C6). -/
inductive Rounding where
  | down
  | up
  deriving DecidableEq, Repr

/-- `CAP`: the staging buffer's capacity in bytes, the chunk size (R6, R30, D8). -/
def Config.cap : Nat := 64

/-- `STRETCH_TIMEOUT_US`: the upper bound of one stretch wait, 1000 ms (R6, R103, R262). -/
def Config.stretchTimeoutUs : Nat := 1000000

/-- `INIT_PERIOD_US`: the period given to `setClockPeriod` at reset (R6, D13). -/
def Config.initPeriodUs : Nat := 2

/-- `EVEN_ROUNDING` (R6, D12). -/
def Config.evenRounding : Rounding := .down

/-- `CAPABILITY_WORD` (R6, R155, D5). -/
def Config.capabilityWord : Word32 := 0x0EFF0019#32

/-- `SEL_ECHO` (R72, D1). -/
def Config.selEcho : Byte := 0#8

/-- `SEL_GET_CAPABILITIES` (R72, D1). -/
def Config.selGetCapabilities : Byte := 1#8

/-- `SEL_SET_CLOCK_PERIOD` (R72, D1). -/
def Config.selSetClockPeriod : Byte := 2#8

/-- `SEL_GET_STATUS` (R72, D1). -/
def Config.selGetStatus : Byte := 3#8

/-- `SEL_I2C_IO`: the io bit alone (R72, R73, D1). -/
def Config.selI2cIo : Byte := 4#8

/-- `SEL_I2C_IO_BEGIN`: io and BEGIN (bit 0) (R72, R73, D1). -/
def Config.selI2cIoBegin : Byte := 5#8

/-- `SEL_I2C_IO_END`: io and END (bit 1) (R72, R73, D1). -/
def Config.selI2cIoEnd : Byte := 6#8

/-- `SEL_I2C_IO_BEGIN_END`: io, BEGIN and END (R72, R73, D1). -/
def Config.selI2cIoBeginEnd : Byte := 7#8

/-- `STATUS_IDLE` (R26, D2). -/
def Config.statusIdle : Byte := 0#8

/-- `STATUS_ADDRESS_ACK` (R26, D2). -/
def Config.statusAddressAck : Byte := 1#8

/-- `STATUS_ADDRESS_NAK` (R26, D2). -/
def Config.statusAddressNak : Byte := 2#8

/-- `SDA_PIN`: OPEN in the spec, no rule depends on it (R6, R226, D35). -/
opaque Config.sdaPin : Nat

/-- `SCL_PIN`: OPEN in the spec, no rule depends on it (R6, R226, D35). -/
opaque Config.sclPin : Nat

/-- FREE VALUE: what the BUS agent answers at its `n`-th answer that the state does not give; "under no law" (R46,
R128, R132, D28; log 1). -/
opaque Config.freeSda : Nat → Level

/-- FREE VALUE: how the CLOCK agent ends its `n`-th stretch wait that the state does not give; "under no law" (R103,
D9, D32; log 1). -/
opaque Config.freeStretch : Nat → Stretch

end Sys2Proof
end

