-- ==== Sys2Proof/Syntax.lean ====
section
/-!
DEFINITION. The request record (20_memory.md R52, 30_encoding.md R70) and the instructions: one constructor per row
of the opcode table (30_encoding.md R72). Each carries the whole setup record less its selector, so that no bit of a
request is lost: which bits an instruction reads is said where it reads them (Machine/Operands.lean).
-/

namespace Sys2Proof

/-- The fields of a setup record beside the selector (R52, R70). -/
structure SetupFields where
  /-- USB bmRequestType: carried, never read by the block (R52, D24). -/
  reqType : Byte
  /-- USB wValue: direction flag of I2C_IO (R75), payload of ECHO (R80). -/
  value : Half
  /-- USB wIndex: target address (R77). -/
  index : Half
  /-- USB wLength: data bytes of I2C_IO (R79), bound of a reply (R152). -/
  length : Half
  deriving DecidableEq, Repr

/-- The request record a `Setup` event carries (R52). -/
structure Request where
  /-- USB bmRequestType. -/
  reqType : Byte
  /-- USB bRequest: the operation selector (R72). -/
  sel : Byte
  /-- USB wValue. -/
  value : Half
  /-- USB wIndex. -/
  index : Half
  /-- USB wLength. -/
  length : Half
  deriving DecidableEq, Repr

/-- The host requests the block executes, one per row of the opcode table (R72). -/
inductive Instr where
  /-- ECHO, selector 0 (R153). -/
  | echo (f : SetupFields)
  /-- GET_CAPABILITIES, selector 1 (R154). -/
  | getCapabilities (f : SetupFields)
  /-- SET_CLOCK_PERIOD, selector 2 (R156). -/
  | setClockPeriod (f : SetupFields)
  /-- GET_STATUS, selector 3 (R158). -/
  | getStatus (f : SetupFields)
  /-- I2C_IO, selector 4 (R195). -/
  | i2cIo (f : SetupFields)
  /-- I2C_IO_BEGIN, selector 5 (R196). -/
  | i2cIoBegin (f : SetupFields)
  /-- I2C_IO_END, selector 6 (R197). -/
  | i2cIoEnd (f : SetupFields)
  /-- I2C_IO_BEGIN_END, selector 7 (R198). -/
  | i2cIoBeginEnd (f : SetupFields)
  deriving DecidableEq, Repr

/-- The setup fields an instruction carries. -/
def Instr.fields : Instr → SetupFields
  | .echo f => f
  | .getCapabilities f => f
  | .setClockPeriod f => f
  | .getStatus f => f
  | .i2cIo f => f
  | .i2cIoBegin f => f
  | .i2cIoEnd f => f
  | .i2cIoBeginEnd f => f

end Sys2Proof
end

