-- ==== Sys2Proof/WellFormed.lean ====
section
/-!
DEFINITION. The well-formed instructions: the requests a host that keeps its duties H4 and H5 (20_memory.md R54)
delivers, with the request types of 30_encoding.md R71. The block checks none of this (D24, D25): the decoder and the
step never ask for it, and an ill-formed request runs by the same rules (93_implementation_defined.md).
-/

namespace Sys2Proof

/-- Duty H5: bits 6:5 of bmRequestType say a vendor request (value 2; R71). -/
def SetupFields.isVendor (f : SetupFields) : Bool :=
  f.reqType.extractLsb' 5 2 == 2#2

/-- Duty H5: bits 4:0 of bmRequestType say the recipient is an interface (value 1; R71). -/
def SetupFields.toInterface (f : SetupFields) : Bool :=
  f.reqType.extractLsb' 0 5 == 1#5

/-- Duty H4: whether the transfer's direction is IN. An I2C_IO request is IN exactly when its direction flag says
read; ECHO, GET_CAPABILITIES and GET_STATUS are IN, SET_CLOCK_PERIOD is OUT (R54, R71). -/
def Instr.wantsIn : Instr → Bool
  | .echo _ => true
  | .getCapabilities _ => true
  | .setClockPeriod _ => false
  | .getStatus _ => true
  | .i2cIo f => f.value.getLsbD 0
  | .i2cIoBegin f => f.value.getLsbD 0
  | .i2cIoEnd f => f.value.getLsbD 0
  | .i2cIoBeginEnd f => f.value.getLsbD 0

/-- Duty H4: bit 7 of bmRequestType (1 = device to host) matches the request. -/
def Instr.directionMatches (i : Instr) : Bool :=
  i.fields.reqType.getLsbD 7 == i.wantsIn

/-- A request a conforming host delivers (duties H4 and H5 of R54). -/
def Instr.wf (i : Instr) : Bool :=
  i.fields.isVendor && i.fields.toInterface && i.directionMatches

end Sys2Proof
end

