-- ==== Sys2Proof/Decode.lean ====
section
/-!
DEFINITION. The decoder and the encoder: the 8-byte setup packet of 30_encoding.md R70, the selector map of R72, and
the numbering of spec/opcode_table.json. The decoder is total and rejects by name.
-/

namespace Sys2Proof

/-- Why bytes are no instruction. -/
inductive DecodeError where
  /-- A setup packet has exactly 8 bytes (R70); these were `n`. -/
  | wrongLength (n : Nat)
  /-- A selector of the unsupported row, 8 to 255 (R72, R159). -/
  | unsupportedRequest (sel : Byte)
  deriving DecidableEq, Repr

/-- The setup packet's bytes as the request record (R70): 16-bit fields are little-endian. -/
def packetRequest : List Byte → Except DecodeError Request
  | [b0, b1, b2, b3, b4, b5, b6, b7] =>
    .ok { reqType := b0, sel := b1, value := b3 ++ b2, index := b5 ++ b4, length := b7 ++ b6 }
  | bytes => .error (.wrongLength bytes.length)

/-- The record's fields beside the selector. -/
def Request.fields (r : Request) : SetupFields :=
  { reqType := r.reqType, value := r.value, index := r.index, length := r.length }

/-- The selector map (R72 to R74, R150): by `sel` alone, total over its 256 values. -/
def decodeRequest (r : Request) : Except DecodeError Instr :=
  if r.sel = Config.selEcho then .ok (.echo r.fields)
  else if r.sel = Config.selGetCapabilities then .ok (.getCapabilities r.fields)
  else if r.sel = Config.selSetClockPeriod then .ok (.setClockPeriod r.fields)
  else if r.sel = Config.selGetStatus then .ok (.getStatus r.fields)
  else if r.sel = Config.selI2cIo then .ok (.i2cIo r.fields)
  else if r.sel = Config.selI2cIoBegin then .ok (.i2cIoBegin r.fields)
  else if r.sel = Config.selI2cIoEnd then .ok (.i2cIoEnd r.fields)
  else if r.sel = Config.selI2cIoBeginEnd then .ok (.i2cIoBeginEnd r.fields)
  else .error (.unsupportedRequest r.sel)

/-- The instruction a setup packet's bytes stand for. -/
def decode (bytes : List Byte) : Except DecodeError Instr :=
  match packetRequest bytes with
  | .ok r => decodeRequest r
  | .error e => .error e

/-- The selector of an instruction (R72). -/
def Instr.sel : Instr → Byte
  | .echo _ => Config.selEcho
  | .getCapabilities _ => Config.selGetCapabilities
  | .setClockPeriod _ => Config.selSetClockPeriod
  | .getStatus _ => Config.selGetStatus
  | .i2cIo _ => Config.selI2cIo
  | .i2cIoBegin _ => Config.selI2cIoBegin
  | .i2cIoEnd _ => Config.selI2cIoEnd
  | .i2cIoBeginEnd _ => Config.selI2cIoBeginEnd

/-- The request record an instruction stands for. -/
def Instr.request (i : Instr) : Request :=
  { reqType := i.fields.reqType, sel := i.sel, value := i.fields.value, index := i.fields.index,
    length := i.fields.length }

/-- The low byte of a u16. -/
def Half.lo (v : Half) : Byte := v.extractLsb' 0 8

/-- The high byte of a u16. -/
def Half.hi (v : Half) : Byte := v.extractLsb' 8 8

/-- A request record as the 8 bytes of its setup packet (R70). -/
def requestPacket (r : Request) : List Byte :=
  [r.reqType, r.sel, Half.lo r.value, Half.hi r.value, Half.lo r.index, Half.hi r.index, Half.lo r.length,
    Half.hi r.length]

/-- The setup packet of an instruction. -/
def encode (i : Instr) : List Byte :=
  requestPacket i.request

/-- The packet of an instruction numbered as spec/opcode_table.json numbers it: the table's bits 7:0 are `sel`, which
is byte 1 of the packet, so bits 23:8 are wValue, 39:24 wIndex and 55:40 wLength, and bits above `nbits` are 0. The
table numbers no bit of byte 0 (bmRequestType, never read by the block): it is 0 (log 11). -/
def tablePacket (nbits w : Nat) : List Byte :=
  let v := w % 2 ^ nbits
  [0#8, BitVec.ofNat 8 v, BitVec.ofNat 8 (v / 2 ^ 8), BitVec.ofNat 8 (v / 2 ^ 16), BitVec.ofNat 8 (v / 2 ^ 24),
    BitVec.ofNat 8 (v / 2 ^ 32), BitVec.ofNat 8 (v / 2 ^ 40), BitVec.ofNat 8 (v / 2 ^ 48)]

/-- What the decoder reads from an instruction numbered as spec/opcode_table.json numbers it. -/
def decodeTableWord (nbits w : Nat) : Option Instr :=
  match decode (tablePacket nbits w) with
  | .ok i => some i
  | .error _ => none

end Sys2Proof
end

