-- ==== Sys2Proof/Machine/Timing.lean ====
section
/-!
DEFINITION. The arithmetic of the bus clock: the delay pair that `setClockPeriod` computes (40_bus_timing.md R106).
-/

namespace Sys2Proof.Machine

/-- "even-round the period" in the direction `r` (R106). -/
def evenRound (r : Rounding) (p : Nat) : Nat :=
  match r with
  | .down => p - p % 2
  | .up => p + p % 2

/-- `(delay_before, delay_after)` for a requested period of `p` microseconds (R106). -/
def delayPair (r : Rounding) (p : Nat) : Nat × Nat :=
  if p < 3 then (0, 1)
  else if p < 5 then (1, 1)
  else
    let q := evenRound r p
    let b := q / 6
    let a := (q - 2 * b) / 2
    if 2 * (b + a) < p then (b + 1, a) else (b, a)

end Sys2Proof.Machine
end

