-- ==== Sys2Proof/Machine/State.lean ====
section
/-!
DEFINITION. The state of the machine: every slot 10_state.md gives the block (R20 to R37), the bus trace and the
responses it is observed by (20_memory.md R48, R53; 00_scope.md R12), and, as plain data, what the HOST, BUS and CLOCK
agents are still to do (R3). Below it the reasons a step can stop, and the state after reset.
-/

namespace Sys2Proof.Machine

/-- `bus_phase`, the driver's bus condition (R32). -/
inductive BusPhase where
  | busIdle
  | busActive
  deriving DecidableEq, Repr

/-- `phase`, the bridge sequencer position between host events (R31). -/
inductive Phase where
  | idle
  | inMore
  | outWait
  deriving DecidableEq, Repr

/-- The direction flag of a transfer (R28, R75): bit 1 is read, bit 0 is write. -/
inductive Direction where
  | write
  | read
  deriving DecidableEq, Repr

/-- The pending transfer (R28). Meaningful only while `phase` is not IDLE. -/
structure Pending where
  /-- `pend.begin`. -/
  beginBit : Bool
  /-- `pend.end`. -/
  endBit : Bool
  /-- `pend.dir`. -/
  dir : Direction
  /-- `pend.addr`. -/
  addr : BusAddr
  /-- `pend.len`. -/
  len : Half
  /-- `pend.done`: bytes already moved on the bus. -/
  done : Half
  deriving DecidableEq, Repr

/-- The events of the bus trace (R48). -/
inductive BusEvent where
  /-- The block set its output on a line. -/
  | set (line : Line) (lvl : Level)
  /-- The SCL wait ended. -/
  | stretch (out : Stretch)
  /-- The block read SDA. -/
  | sampleSda (lvl : Level)
  /-- A busy-wait, in microseconds; timing only. -/
  | delay (us : Nat)
  deriving DecidableEq, Repr

/-- Why a request failed (R210); kept in the observation, not sent to the host. -/
inductive StallReason where
  /-- The address byte was not acknowledged (R211). -/
  | addressNack
  /-- A data byte of a write was not acknowledged (R212). -/
  | dataNack
  /-- A selector from 8 to 255 (R213). -/
  | unsupportedRequest
  /-- A data event that no data stage expects (R214). -/
  | noDataStage
  deriving DecidableEq, Repr

/-- What the block answers an event with (R53). -/
inductive Response where
  | reply (bytes : List Byte)
  | expect (n : Nat)
  | accept
  | stall (reason : StallReason)
  deriving DecidableEq, Repr

/-- What the host delivers (R52). -/
inductive HostEvent where
  | setup (req : Request)
  | dataIn
  | dataOut (bytes : List Byte)
  | statusAck
  deriving DecidableEq, Repr

/-- What reaches the block from outside: a host event, or a power-up or device reset (R240). -/
inductive Input where
  | host (ev : HostEvent)
  | reset
  deriving DecidableEq, Repr

/-- The bus timing primitive and the bus driver (R2): line outputs, delay pair, bus condition, trace; and what the
BUS and CLOCK agents will answer. -/
structure Bus where
  /-- `sda_out` (R21). -/
  sdaOut : Level
  /-- `scl_out` (R22). -/
  sclOut : Level
  /-- `delay_before` (R24). -/
  delayBefore : Nat
  /-- `delay_after` (R24). -/
  delayAfter : Nat
  /-- `bus_phase` (R32). -/
  busPhase : BusPhase
  /-- The bus trace, oldest event first (R48). -/
  trace : List BusEvent
  /-- The MODEL'S own field: the BUS agent's next answers to `Sample(SDA)`, the next one first (R45, R46; log 1). -/
  busAnswers : List Level
  /-- The MODEL'S own field: how many BUS answers have been drawn free (log 1). -/
  busDrawn : Nat
  /-- The MODEL'S own field: the CLOCK agent's next outcomes, the next one first (R103; log 1). -/
  clockAnswers : List Stretch
  /-- The MODEL'S own field: how many CLOCK outcomes have been drawn free (log 1). -/
  clockDrawn : Nat
  deriving DecidableEq, Repr

/-- The machine's state. -/
structure State where
  /-- The driver's slots, the trace, and the BUS and CLOCK agents. -/
  bus : Bus
  /-- `status` (R26). -/
  status : Byte
  /-- `phase` (R31). -/
  phase : Phase
  /-- `pend` (R28). -/
  pend : Pending
  /-- `buf`, the staging buffer (R30), as memory cells in canonical form (`Memory.wf`). -/
  buf : List Host.Cell
  /-- What the block has answered, oldest first (R12, R53). -/
  responses : List Response
  /-- What HOST is still to deliver, the next event first (R52). -/
  inputs : List Input
  deriving DecidableEq, Repr

/-- What a byte of the buffer that is not listed reads as. The spec leaves the reset content open and never observed
(R30, R42): DESIGN CHOICE, log 6. -/
def Memory.unlisted : Byte := 0#8

/-- The canonical form of the buffer: indexes rising, all below CAP, no entry equal to what an unlisted byte reads
as. -/
abbrev Memory.wf (m : List Host.Cell) : Prop :=
  m.Pairwise (fun c d => c.1 < d.1) ∧ ∀ c ∈ m, c.1 < Config.cap ∧ c.2 ≠ Memory.unlisted

/-- Why the machine would stop with a fault. NO CONSTRUCTOR: "No point is treated as fault or stuck"
(93_implementation_defined.md) and "no crash/fatal path exists in normal operation" (R220). Nothing raises it, which
is safe: the four failures of R210 are responses the machine goes on from. -/
inductive Fault where
  deriving DecidableEq, Repr

/-- Why an instruction would have no meaning. -/
inductive Refusal where
  /-- Raised only by an arm of `exec` whose instruction is not modelled yet: none is left. Safe: the machine stops
  where the hardware goes on. -/
  | notModelled (mnemonic : String)
  deriving DecidableEq, Repr

/-- The pending transfer after reset: "any value", never observed (R28, R37). DESIGN CHOICE, log 5. -/
def Pending.reset : Pending :=
  { beginBit := false, endBit := false, dir := .write, addr := 0#7, len := 0#16, done := 0#16 }

/-- The driver after reset (R37, R241); no answers are given yet, so every draw is free (log 1). -/
def Bus.reset : Bus :=
  { sdaOut := .high
    sclOut := .high
    delayBefore := (delayPair Config.evenRounding Config.initPeriodUs).1
    delayAfter := (delayPair Config.evenRounding Config.initPeriodUs).2
    busPhase := .busIdle
    trace := []
    busAnswers := []
    busDrawn := 0
    clockAnswers := []
    clockDrawn := 0 }

/-- The machine right after reset (R37, R241). -/
def State.reset : State :=
  { bus := Bus.reset
    status := Config.statusIdle
    phase := .idle
    pend := Pending.reset
    buf := []
    responses := []
    inputs := [] }

end Sys2Proof.Machine
end

