-- ==== Sys2Proof/Machine/Flags.lean ====
section
/-!
DEFINITION. The one flag and the one status code of the block: `ack`, which is returned and never held (10_state.md
R33), and `status` (R26).
-/

namespace Sys2Proof.Machine

/-- The acknowledge flag from the level sampled at the ninth clock: LOW is acknowledged (R127, R128). -/
def ackFlag (d : Level) : Bool :=
  match d with
  | .low => true
  | .high => false

/-- The bit a sampled level stands for (R130). -/
def levelBit (d : Level) : Byte :=
  match d with
  | .high => 1#8
  | .low => 0#8

/-- The level that puts a bit on SDA (R127). -/
def bitLevel (b : Bool) : Level :=
  match b with
  | true => .high
  | false => .low

/-- The level of the acknowledge bit of a read: NACK (released) after the last byte, ACK (driven low) otherwise (R130,
R131). -/
def readAckLevel (isLast : Bool) : Level :=
  match isLast with
  | true => .high
  | false => .low

/-- The status code of an address phase (R172, R173). -/
def addressStatus (ack : Bool) : Byte :=
  match ack with
  | true => Config.statusAddressAck
  | false => Config.statusAddressNak

end Sys2Proof.Machine
end

