-- ==== Sys2Proof/Machine/Ops.lean ====
section
/-!
DEFINITION. The named operations the rules are written with (00_scope.md R8): the trace, the agents' answers, the two
lines, the staging buffer, the response, and the one way a request fails (60_exceptions.md R210).
-/

namespace Sys2Proof.Machine

/-! ### Trace, delays and the agents' answers -/

/-- `emit(e)`: append to the bus trace (R8, R48). -/
def Bus.emit (e : BusEvent) (u : Bus) : Bus :=
  { u with trace := u.trace ++ [e] }

/-- `Wait(us)`: a timing event only (R101). -/
def Bus.wait (us : Nat) (u : Bus) : Bus :=
  u.emit (.delay us)

/-- The BUS agent's answer to the next sample: the one the state gives, or a free one (R46, R128, R132; log 1). -/
def Bus.nextSda (u : Bus) : Level :=
  match u.busAnswers with
  | [] => Config.freeSda u.busDrawn
  | d :: _ => d

/-- The driver once the BUS agent has given that answer. -/
def Bus.dropSda (u : Bus) : Bus :=
  match u.busAnswers with
  | [] => { u with busDrawn := u.busDrawn + 1 }
  | _ :: ds => { u with busAnswers := ds }

/-- The CLOCK agent's outcome of the next stretch wait: the one the state gives, or a free one (R103; log 1). -/
def Bus.nextStretch (u : Bus) : Stretch :=
  match u.clockAnswers with
  | [] => Config.freeStretch u.clockDrawn
  | o :: _ => o

/-- The driver once the CLOCK agent has given that outcome. -/
def Bus.dropStretch (u : Bus) : Bus :=
  match u.clockAnswers with
  | [] => { u with clockDrawn := u.clockDrawn + 1 }
  | _ :: os => { u with clockAnswers := os }

/-! ### The two lines -/

/-- The physical level of an open-drain line from the block's output and the devices' (R23, R45). -/
def Level.wiredAnd (own others : Level) : Level :=
  match own with
  | .low => .low
  | .high => others

/-- Write `out(line)` (R100): the only writer of `sda_out` and `scl_out`. -/
def Bus.setOut (line : Line) (lvl : Level) (u : Bus) : Bus :=
  match line with
  | .sda => { u with sdaOut := lvl }
  | .scl => { u with sclOut := lvl }

/-- `Sample(SDA)` (R46): a line the block drives reads LOW without asking; else the BUS agent answers. -/
def Bus.sampleSda (u : Bus) : Level × Bus :=
  match u.sdaOut with
  | .low => (.low, u)
  | .high => (Level.wiredAnd u.sdaOut u.nextSda, u.dropSda.emit (.sampleSda u.nextSda))

/-- `StretchWait()` (R103): ends by release or by timeout, and either way only the trace says which (R104). -/
def Bus.stretchWait (u : Bus) : Bus :=
  u.dropStretch.emit (.stretch u.nextStretch)

/-- The stretch wait of a `setLine` call: only releasing SCL has one (R100, R105). -/
def Bus.stretchIfReleasingScl (line : Line) (lvl : Level) (u : Bus) : Bus :=
  match line, lvl with
  | .scl, .high => u.stretchWait
  | _, _ => u

/-- `setLine(line, lvl)` (R100): the before-delay, the line, the stretch wait, the after-delay (D10), whether or not
the level changes (R105). -/
def Bus.setLine (line : Line) (lvl : Level) (u : Bus) : Bus :=
  let waited := u.wait u.delayBefore
  let moved := (waited.setOut line lvl).emit (.set line lvl)
  let released := moved.stretchIfReleasingScl line lvl
  released.wait released.delayAfter

/-- `setClockPeriod(p)` (R106): the only writer of the delay pair, called only at reset (R24, R109). -/
def Bus.setClockPeriod (p : Nat) (u : Bus) : Bus :=
  { u with
    delayBefore := (delayPair Config.evenRounding p).1
    delayAfter := (delayPair Config.evenRounding p).2 }

/-! ### The staging buffer -/

/-- The byte at an index of a buffer in canonical form. -/
def Memory.get (a : Nat) : List Host.Cell → Byte
  | [] => Memory.unlisted
  | (b, w) :: m => if a = b then w else Memory.get a m

/-- The cell that lists `v` at `a`: none for the value an unlisted byte reads as. -/
def Memory.cell (a : Nat) (v : Byte) : List Host.Cell :=
  if v = Memory.unlisted then [] else [(a, v)]

/-- The buffer with `v` at index `a`, in canonical form again. -/
def Memory.set (a : Nat) (v : Byte) : List Host.Cell → List Host.Cell
  | [] => Memory.cell a v
  | (b, w) :: m =>
    if a < b then Memory.cell a v ++ (b, w) :: m
    else if a = b then Memory.cell a v ++ m
    else (b, w) :: Memory.set a v m

/-- `MemRead(i, 1)` (R40). An index is one of `0 .. CAP-1`: no other exists. -/
def State.memRead (i : Fin Config.cap) (s : State) : Byte :=
  Memory.get i.val s.buf

/-- `MemWrite(i, 1, v)` (R40). -/
def State.memWrite (i : Fin Config.cap) (v : Byte) (s : State) : State :=
  { s with buf := Memory.set i.val v s.buf }

/-- The buffer indexes `0 .. n-1` in order, for the loops "for k = 0 to n - 1" (R41); `n` is at most CAP in every
rule that uses it (R40, R188). -/
def indexes (n : Nat) : List (Fin Config.cap) :=
  (List.range n).filterMap fun k => if h : k < Config.cap then some ⟨k, h⟩ else none

/-! ### Responses and failures -/

/-- `respond(r)`: end the handler with response `r` to HOST (R8, R53). -/
def State.respond (r : Response) (s : State) : State :=
  { s with responses := s.responses ++ [r] }

/-- `raise Stall(reason)` (R210): the one way a request fails. It saves nothing and goes to no handler (R218), it is
not rolled back (R219), and there is no return from it (R220): what it writes is the clean-up its raiser did first. -/
def State.raiseStall (reason : StallReason) (s : State) : State :=
  s.respond (.stall reason)

/-- `reset()` at a power-up or device reset (R240, R241): every slot gets its reset value, with no bus recovery and no
trace event (R242, R243). The trace and the responses start empty; what the agents outside will do is theirs, and
stays (log 4). -/
def State.deviceReset (s : State) : State :=
  { bus :=
      { s.bus with sdaOut := .high, sclOut := .high, busPhase := .busIdle, trace := [] }.setClockPeriod
        Config.initPeriodUs
    status := Config.statusIdle
    phase := .idle
    pend := Pending.reset
    buf := []
    responses := []
    inputs := s.inputs }

end Sys2Proof.Machine
end

