-- ==== Sys2Proof/Machine/Driver.lean ====
section
/-!
DEFINITION. The bit-banged I2C driver (41_bus_driver.md): start, repeatedStart, stop, write and read, over `setLine`.
No operation fails (R133) and none is interrupted (R135).
-/

namespace Sys2Proof.Machine

/-- `start()` (R120): neither releases the lines first nor checks the bus (R121). -/
def Bus.start (u : Bus) : Bus :=
  let u := u.setLine .sda .low
  let u := u.setLine .scl .low
  { u with busPhase := .busActive }

/-- `repeatedStart()` (R122): SDA is not sampled (R123). -/
def Bus.repeatedStart (u : Bus) : Bus :=
  let u := u.setLine .sda .high
  let u := u.setLine .scl .high
  let u := u.setLine .sda .low
  let u := u.setLine .scl .low
  { u with busPhase := .busActive }

/-- `stop()` (R124): all three calls, whatever the lines were (R126). -/
def Bus.stop (u : Bus) : Bus :=
  let u := u.setLine .sda .low
  let u := u.setLine .scl .high
  let u := u.setLine .sda .high
  { u with busPhase := .busIdle }

/-- One clock pulse: SCL high (with its stretch wait), then low. -/
def Bus.clockPulse (u : Bus) : Bus :=
  (u.setLine .scl .high).setLine .scl .low

/-- The bits `n-1` down to `0` of a byte on SDA, each with its clock pulse (R43, R127). -/
def Bus.writeBits (b : Byte) : Nat → Bus → Bus
  | 0, u => u
  | n + 1, u => Bus.writeBits b n (u.setLine .sda (bitLevel (b.getLsbD n))).clockPulse

/-- `write(b)` (R127): eight bits, then the acknowledge sampled once at the ninth clock (R128). -/
def Bus.write (b : Byte) (u : Bus) : Bool × Bus :=
  let sent := Bus.writeBits b 8 u
  let ninth := (sent.setLine .sda .high).setLine .scl .high
  let sampled := ninth.sampleSda
  (ackFlag sampled.1, sampled.2.setLine .scl .low)

/-- `n` bits shifted into `v`, most significant first, each sampled while SCL is high (R43, R130). -/
def Bus.readBits : Nat → Byte → Bus → Byte × Bus
  | 0, v, u => (v, u)
  | n + 1, v, u =>
    let sampled := (u.setLine .scl .high).sampleSda
    Bus.readBits n ((v <<< 1) ||| levelBit sampled.1) (sampled.2.setLine .scl .low)

/-- `read(isLast)` (R130): SDA released, SCL low, eight samples, the acknowledge bit strobed (R131), SDA released. -/
def Bus.read (isLast : Bool) (u : Bus) : Byte × Bus :=
  let ready := (u.setLine .sda .high).setLine .scl .low
  let got := Bus.readBits 8 0#8 ready
  let strobed := (got.2.setLine .sda (readAckLevel isLast)).clockPulse
  (got.1, strobed.setLine .sda .high)

end Sys2Proof.Machine
end

