-- ==== Sys2Proof/Machine/Operands.lean ====
section
/-!
DEFINITION. Operand assembly (30_encoding.md R75 to R80) and the reply formats (R44, R81, R152).
-/

namespace Sys2Proof.Machine

/-- `dir = value[0]`: 1 is read, 0 is write; `value[15:1]` is ignored (R75, R76). -/
def dirOperand (f : SetupFields) : Direction :=
  match f.value.getLsbD 0 with
  | true => .read
  | false => .write

/-- `addr = index[6:0]`; `index[15:7]` does not reach the bus (R77). -/
def addrOperand (f : SetupFields) : BusAddr :=
  f.index.extractLsb' 0 7

/-- `len = length`, data bytes only (R79). -/
def lenOperand (f : SetupFields) : Half :=
  f.length

/-- The direction as the address byte's bit 0 (R78). -/
def dirBit (d : Direction) : BitVec 1 :=
  match d with
  | .read => 1#1
  | .write => 0#1

/-- The on-wire address byte, address above direction (R78). -/
def addressByte (a : BusAddr) (d : Direction) : Byte :=
  a ++ dirBit d

/-- A u16 as reply bytes, least significant first (R44). -/
def replyHalf (v : Half) : List Byte :=
  [v.extractLsb' 0 8, v.extractLsb' 8 8]

/-- A u32 as reply bytes, least significant first (R44). -/
def replyWord32 (v : Word32) : List Byte :=
  [v.extractLsb' 0 8, v.extractLsb' 8 8, v.extractLsb' 16 8, v.extractLsb' 24 8]

/-- A reply cut to the length the host asked for (R152). -/
def cutReply (length : Half) (bytes : List Byte) : List Byte :=
  bytes.take length.toNat

/-- The size of the next chunk of a transfer: `min(CAP, len - done)` (R176, R182, R188). -/
def chunkSize (p : Pending) : Nat :=
  min Config.cap (p.len.toNat - p.done.toNat)

end Sys2Proof.Machine
end

