-- ==== Sys2Proof/Machine/Bridge.lean ====
section
/-!
DEFINITION. The transaction bridge (43_bridge_i2c_io.md): the setup handler the four I2C_IO requests share, the read
and write chunks, and the events that continue a data stage.
-/

namespace Sys2Proof.Machine

/-! ### Setup and the address phase -/

/-- R171, with the first line of R170: a pending transfer is discarded without a bus operation (R187) and the new one
is created before any. -/
def openTransfer (beginBit endBit : Bool) (f : SetupFields) (s : State) : State :=
  { s with
    phase := .idle
    pend :=
      { beginBit := beginBit, endBit := endBit, dir := dirOperand f, addr := addrOperand f,
        len := lenOperand f, done := 0#16 } }

/-- The address phase (R172): START or repeated START, then the address byte. Answers whether it was acknowledged. -/
def addressPhase (s : State) : Bool × State :=
  let opened :=
    match s.pend.beginBit with
    | true => s.bus.start
    | false => s.bus.repeatedStart
  let w := opened.write (addressByte s.pend.addr s.pend.dir)
  (w.1, { s with bus := w.2 })

/-- `if pend.end = 1 then call stop()` (R174, R180, R184). -/
def stopIfEnd (s : State) : State :=
  match s.pend.endBit with
  | true => { s with bus := s.bus.stop }
  | false => s

/-! ### Read data phase -/

/-- The loop of R176: one bus read per buffer index. `isLast` is true on the final byte of the whole requested length
(R177). -/
def readOver : List (Fin Config.cap) → State → State
  | [], s => s
  | k :: ks, s =>
    let r := s.bus.read (s.pend.done.toNat + k.val + 1 == s.pend.len.toNat)
    readOver ks (State.memWrite k r.1 { s with bus := r.2 })

/-- R178: the transfer advances by a chunk of `n` bytes and is complete or has more to come; the END stop is inside
the handler of the last chunk (R180). -/
def advanceRead (n : Nat) (s : State) : State :=
  let s := { s with pend := { s.pend with done := s.pend.done + BitVec.ofNat 16 n } }
  if s.pend.done = s.pend.len then { stopIfEnd s with phase := .idle }
  else { s with phase := .inMore }

/-- `ReadChunk()` (R176): read the chunk from the bus, then hand over `buf[0 .. n-1]`. -/
def readChunk (s : State) : State :=
  let n := chunkSize s.pend
  let s := advanceRead n (readOver (indexes n) s)
  s.respond (.reply ((indexes n).map fun k => s.memRead k))

/-! ### Write data phase -/

/-- The copy loop of R182: the payload's bytes into the buffer. -/
def storeOver : List (Fin Config.cap) → List Byte → State → State
  | k :: ks, b :: bs, s => storeOver ks bs (State.memWrite k b s)
  | _, _, s => s

/-- One turn of the loop of R183: the byte at `k` onto the bus, `done` counting it. Answers whether it was
acknowledged. -/
def writeByte (k : Fin Config.cap) (s : State) : Bool × State :=
  let w := s.bus.write (s.memRead k)
  (w.1, { s with bus := w.2, pend := { s.pend with done := s.pend.done + 1#16 } })

/-- The loop of R183: each byte of the chunk in order, until one is not acknowledged. Answers whether all were. -/
def writeOver : List (Fin Config.cap) → State → Bool × State
  | [], s => (true, s)
  | k :: ks, s =>
    let w := writeByte k s
    if w.1 then writeOver ks w.2 else (false, w.2)

/-- R184: after every byte of a chunk is acknowledged. -/
def chunkWritten (s : State) : State :=
  if s.pend.done = s.pend.len then State.respond .accept { stopIfEnd s with phase := .idle }
  else s.respond (.expect (chunkSize s.pend))

/-- The data NACK of R183 and R212: a forced stop, the transfer cleared, `status` untouched. -/
def dataNacked (s : State) : State :=
  State.raiseStall .dataNack { s with bus := s.bus.stop, phase := .idle }

/-- `WriteChunk(m)` (R183, R184). -/
def writeChunk (m : Nat) (s : State) : State :=
  let w := writeOver (indexes m) s
  match w.1 with
  | true => chunkWritten w.2
  | false => dataNacked w.2

/-! ### The setup handler -/

/-- The address NACK of R173 and R211. -/
def addressNacked (s : State) : State :=
  State.raiseStall .addressNack { s with status := addressStatus false, bus := s.bus.stop }

/-- The acknowledged address of R170: no data phase for length 0 (R174), else the first read chunk (R175) or the wait
for the first write chunk (R181). -/
def addressAcked (s : State) : State :=
  let s := { s with status := addressStatus true }
  if s.pend.len = 0#16 then State.respond .accept (stopIfEnd s)
  else
    match s.pend.dir with
    | .read => readChunk s
    | .write => State.respond (.expect (chunkSize s.pend)) { s with phase := .outWait }

/-- `I2C_IO_SETUP(req)` (R170), for the BEGIN and END bits of the selector. -/
def ioSetup (beginBit endBit : Bool) (f : SetupFields) (s : State) : State :=
  let a := addressPhase (openTransfer beginBit endBit f s)
  match a.1 with
  | true => addressAcked a.2
  | false => addressNacked a.2

/-! ### Continuation events -/

/-- `on DataIn` (R179, R186). -/
def onDataIn (s : State) : State :=
  match s.phase with
  | .inMore => readChunk s
  | .idle => s.raiseStall .noDataStage
  | .outWait => s.raiseStall .noDataStage

/-- `on DataOut(bytes)` (R182, R186): no more than the bytes asked for are used (R185). -/
def onDataOut (bytes : List Byte) (s : State) : State :=
  match s.phase with
  | .outWait =>
    let m := min bytes.length (chunkSize s.pend)
    writeChunk m (storeOver (indexes m) bytes s)
  | .idle => s.raiseStall .noDataStage
  | .inMore => s.raiseStall .noDataStage

/-- `on StatusAck` (R186): the acknowledge stage never changes a slot. -/
def onStatusAck (s : State) : State :=
  s.respond .accept

end Sys2Proof.Machine
end

