-- ==== Sys2Proof/Machine/I2cIo.lean ====
section
/-!
DEFINITION. The four I2C_IO selectors (43_bridge_i2c_io.md R195 to R198): the shared setup handler with the BEGIN and
END bits each selector carries (30_encoding.md R73).
-/

namespace Sys2Proof.Machine

/-- I2C_IO: continue a transaction (R195). -/
def execI2cIo (f : SetupFields) (s : State) : Host.Outcome State Fault Refusal :=
  .next (ioSetup false false f s)

/-- I2C_IO_BEGIN: open a transaction and leave it open (R196). -/
def execI2cIoBegin (f : SetupFields) (s : State) : Host.Outcome State Fault Refusal :=
  .next (ioSetup true false f s)

/-- I2C_IO_END: continue a transaction and close it (R197). -/
def execI2cIoEnd (f : SetupFields) (s : State) : Host.Outcome State Fault Refusal :=
  .next (ioSetup false true f s)

/-- I2C_IO_BEGIN_END: one complete transaction (R198). -/
def execI2cIoBeginEnd (f : SetupFields) (s : State) : Host.Outcome State Fault Refusal :=
  .next (ioSetup true true f s)

end Sys2Proof.Machine
end

