-- ==== Sys2Proof/Machine/Requests.lean ====
section
/-!
DEFINITION. The stateless requests (42_bridge_requests.md): ECHO, GET_CAPABILITIES, SET_CLOCK_PERIOD, GET_STATUS, and
the unsupported selectors. None writes a slot of the block (R151).
-/

namespace Sys2Proof.Machine

/-- ECHO (R153, R152). -/
def execEcho (f : SetupFields) (s : State) : Host.Outcome State Fault Refusal :=
  .next (s.respond (.reply (cutReply f.length (replyHalf f.value))))

/-- GET_CAPABILITIES (R154, R152). -/
def execGetCapabilities (f : SetupFields) (s : State) : Host.Outcome State Fault Refusal :=
  .next (s.respond (.reply (cutReply f.length (replyWord32 Config.capabilityWord))))

/-- SET_CLOCK_PERIOD (R156): accepted, and the period asked for is ignored. -/
def execSetClockPeriod (_ : SetupFields) (s : State) : Host.Outcome State Fault Refusal :=
  .next (s.respond .accept)

/-- GET_STATUS (R158, R152). -/
def execGetStatus (f : SetupFields) (s : State) : Host.Outcome State Fault Refusal :=
  .next (s.respond (.reply (cutReply f.length [s.status])))

/-- A selector from 8 to 255 (R159, R213). -/
def unsupported (s : State) : State :=
  s.raiseStall .unsupportedRequest

end Sys2Proof.Machine
end

