-- ==== Sys2Proof/Machine/Dispatch.lean ====
section
/-!
DEFINITION. The meaning of every instruction, one arm per constructor (42_bridge_requests.md R150).
-/

namespace Sys2Proof.Machine

def exec (i : Instr) (s : State) : Host.Outcome State Fault Refusal :=
  match i with
  | .echo f => Sys2Proof.Machine.execEcho f s
  | .getCapabilities f => Sys2Proof.Machine.execGetCapabilities f s
  | .setClockPeriod f => Sys2Proof.Machine.execSetClockPeriod f s
  | .getStatus f => Sys2Proof.Machine.execGetStatus f s
  | .i2cIo f => Sys2Proof.Machine.execI2cIo f s
  | .i2cIoBegin f => Sys2Proof.Machine.execI2cIoBegin f s
  | .i2cIoEnd f => Sys2Proof.Machine.execI2cIoEnd f s
  | .i2cIoBeginEnd f => Sys2Proof.Machine.execI2cIoBeginEnd f s

end Sys2Proof.Machine
end

