-- ==== Sys2Proof/Machine/Events.lean ====
section
/-!
DEFINITION. The machine's entry points: what each input from outside does (42_bridge_requests.md R150; 43_bridge_i2c_io.md
R179, R182, R186; 70_reset_and_hazards.md R240), and how a setup packet comes to be the next input.
-/

namespace Sys2Proof.Machine

/-- `on Setup(req)` (R150): the handler is chosen by the selector alone. -/
def onSetup (r : Request) (s : State) : Host.Outcome State Fault Refusal :=
  match decodeRequest r with
  | .ok i => exec i s
  | .error _ => .next (unsupported s)

/-- What one input does to the machine that has taken it. -/
def handleInput (e : Input) (s : State) : Host.Outcome State Fault Refusal :=
  match e with
  | .host (.setup r) => onSetup r s
  | .host .dataIn => .next (onDataIn s)
  | .host (.dataOut bytes) => .next (onDataOut bytes s)
  | .host .statusAck => .next (onStatusAck s)
  | .reset => .next s.deviceReset

/-- The machine when HOST delivers nothing: it waits (R218, R12; log 10). -/
def waitForHost (s : State) : Host.Outcome State Fault Refusal :=
  .next s

/-- The machine with an input put before all that HOST is still to deliver. -/
def deliver (e : Input) (s : State) : State :=
  { s with inputs := e :: s.inputs }

/-- The setup packet that spec/opcode_table.json numbers `w`, delivered next (log 11). -/
def deliverPacket (nbits w : Nat) (s : State) : State :=
  match packetRequest (tablePacket nbits w) with
  | .ok r => deliver (.host (.setup r)) s
  | .error _ => s

end Sys2Proof.Machine
end

