-- ==== Sys2Proof/Machine/Step.lean ====
section
/-!
DEFINITION. One step: the block takes the next input and handles it to its response (20_memory.md R52, R53, R58).
-/

namespace Sys2Proof.Machine

/-- One step of the machine. -/
def step (s : State) : Host.Outcome State Fault Refusal :=
  match s.inputs with
  | [] => waitForHost s
  | e :: rest => handleInput e { s with inputs := rest }

/-- `s` with the setup packet that spec/opcode_table.json numbers `w` as the very next input. -/
def State.withFetchWord (s : State) (nbits w : Nat) : State :=
  deliverPacket nbits w s

end Sys2Proof.Machine
end

