-- ==== Sys2Proof/Machine/Assembler.lean ====
section
/-!
DEFINITION. The assembler notation of 30_encoding.md R85, its pseudo-instructions (R86), and the request types a
conforming host gives them (R71). The block never sees this notation: it says which requests a line stands for.
-/

namespace Sys2Proof.Machine

/-- A line of the notation (R85). -/
inductive AsmLine where
  | echo (v : Half)
  | getCapabilities
  | setClockPeriod (v : Half)
  | getStatus
  /-- `IO[.B][.E] R|W a, n [, [b0, b1, ...]]`; the data bytes are the OUT data stage of a write. -/
  | io (beginBit endBit : Bool) (dir : Direction) (a n : Half) (data : List Byte)
  deriving DecidableEq, Repr

/-- bmRequestType of a request with an IN data stage (R71). -/
def reqTypeIn : Byte := 0xC1#8

/-- bmRequestType of a request with an OUT or no data stage (R71). -/
def reqTypeOut : Byte := 0x41#8

/-- bmRequestType by direction (R71). -/
def reqTypeOf (d : Direction) : Byte :=
  match d with
  | .read => reqTypeIn
  | .write => reqTypeOut

/-- The value field of an I2C_IO line: 1 for R, 0 for W (R85). -/
def dirValue (d : Direction) : Half :=
  match d with
  | .read => 1#16
  | .write => 0#16

/-- The selector of an I2C_IO line: 4 + B + 2*E (R85). -/
def ioSelector (beginBit endBit : Bool) : Byte :=
  match beginBit, endBit with
  | false, false => Config.selI2cIo
  | true, false => Config.selI2cIoBegin
  | false, true => Config.selI2cIoEnd
  | true, true => Config.selI2cIoBeginEnd

/-- The request a line stands for; the length of the stateless lines is the size of their reply (R81; log 12). -/
def AsmLine.request (l : AsmLine) : Request :=
  match l with
  | .echo v => { reqType := reqTypeIn, sel := Config.selEcho, value := v, index := 0#16, length := 2#16 }
  | .getCapabilities =>
    { reqType := reqTypeIn, sel := Config.selGetCapabilities, value := 0#16, index := 0#16, length := 4#16 }
  | .setClockPeriod v =>
    { reqType := reqTypeOut, sel := Config.selSetClockPeriod, value := v, index := 0#16, length := 0#16 }
  | .getStatus =>
    { reqType := reqTypeIn, sel := Config.selGetStatus, value := 0#16, index := 0#16, length := 1#16 }
  | .io b e d a n _ =>
    { reqType := reqTypeOf d, sel := ioSelector b e, value := dirValue d, index := a, length := n }

/-- The OUT data stage of a line (R85). -/
def AsmLine.outData (l : AsmLine) : List Byte :=
  match l with
  | .io _ _ .write _ _ data => data
  | .io _ _ .read _ _ _ => []
  | .echo _ => []
  | .getCapabilities => []
  | .setClockPeriod _ => []
  | .getStatus => []

/-- A pseudo-instruction (R86). -/
inductive Pseudo where
  | probe (a : Half)
  | write (a : Half) (data : List Byte)
  | read (a n : Half)
  | writeRead (a : Half) (data : List Byte) (n : Half)
  | check
  deriving DecidableEq, Repr

/-- The requests a pseudo-instruction stands for (R86). -/
def Pseudo.expand (p : Pseudo) : List AsmLine :=
  match p with
  | .probe a => [.io true true .write a 0#16 []]
  | .write a data => [.io true true .write a (BitVec.ofNat 16 data.length) data]
  | .read a n => [.io true true .read a n []]
  | .writeRead a data n =>
    [.io true false .write a (BitVec.ofNat 16 data.length) data, .io false true .read a n []]
  | .check => [.getStatus]

end Sys2Proof.Machine
end

