-- ==== Sys2Proof/Machine/HostLoop.lean ====
section
/-!
DEFINITION. The host-side run of one request (30_encoding.md R87): the transport's loop around the block. It is one
behaviour HOST may have (R54); the machine's step does not depend on it.
-/

namespace Sys2Proof.Machine

/-- How the loop of one request ended, with the IN bytes it got. -/
inductive HostResult where
  | stall (got : List Byte)
  | ok (got : List Byte)
  /-- The fuel ran out, or the machine stopped. -/
  | unfinished (got : List Byte)
  deriving DecidableEq, Repr

/-- Deliver one event to the block, ahead of whatever else it has, and take its response. -/
def hostDeliver (e : HostEvent) (s : State) : Option (Response × State) :=
  match step (deliver (.host e) s) with
  | .next t =>
    match t.responses.getLast? with
    | some r => some (r, t)
    | none => none
  | .fault _ => none
  | .refused _ => none

/-- The end of a request that succeeded: the acknowledge stage (R87). -/
def hostAcknowledge (got : List Byte) (s : State) : HostResult × State :=
  match hostDeliver .statusAck s with
  | some r => (.ok got, r.2)
  | none => (.unfinished got, s)

/-- The loop of R87: `data` is what is left of the OUT bytes, `r` the response to the last event. -/
def hostLoop (req : Request) : Nat → List Byte → List Byte → Response → State → HostResult × State
  | 0, _, got, _, s => (.unfinished got, s)
  | fuel + 1, data, got, r, s =>
    match r with
    | .stall _ => (.stall got, s)
    | .accept => hostAcknowledge got s
    | .expect n =>
      match hostDeliver (.dataOut (data.take n)) s with
      | some q => hostLoop req fuel (data.drop n) got q.1 q.2
      | none => (.unfinished got, s)
    | .reply bytes =>
      if (got ++ bytes).length < req.length.toNat ∧ bytes.length = Config.cap then
        match hostDeliver .dataIn s with
        | some q => hostLoop req fuel data (got ++ bytes) q.1 q.2
        | none => (.unfinished (got ++ bytes), s)
      else hostAcknowledge (got ++ bytes) s

/-- `run(req, data)` (R87), for at most `fuel` turns of the loop. -/
def hostRun (fuel : Nat) (req : Request) (data : List Byte) (s : State) : HostResult × State :=
  match hostDeliver (.setup req) s with
  | some q => hostLoop req fuel data [] q.1 q.2
  | none => (.unfinished [], s)

end Sys2Proof.Machine
end

