-- ==== Sys2Proof/Safety.lean ====
section
/-!
DEFINITION. The terms claims are stated in: what a trace shows of the bus, the line sequences the driver's rules write
out (41_bus_driver.md, in the notation of 00_scope.md R9), the invariants (70_reset_and_hazards.md R252), and when two
states differ only in what no rule lets out. Nothing here is used by the machine.
-/

namespace Sys2Proof.Safety

open Sys2Proof.Machine

/-! ### Reading a trace -/

/-- The `Set` events of a trace, as the vectors of 95_test_vectors.md write it (`SDA↓`, `SCL↑`, ...). -/
def setsOf : List BusEvent → List (Line × Level)
  | [] => []
  | .set line lvl :: es => (line, lvl) :: setsOf es
  | .stretch _ :: es => setsOf es
  | .sampleSda _ :: es => setsOf es
  | .delay _ :: es => setsOf es

/-- The outcomes of the stretch waits in a trace. -/
def stretchesOf : List BusEvent → List Stretch
  | [] => []
  | .stretch o :: es => o :: stretchesOf es
  | .set _ _ :: es => stretchesOf es
  | .sampleSda _ :: es => stretchesOf es
  | .delay _ :: es => stretchesOf es

/-- The `Set` and `SampleSDA` events of a trace, in order: what the vectors of 95_test_vectors.md show. -/
def shownOf : List BusEvent → List BusEvent
  | [] => []
  | .set line lvl :: es => .set line lvl :: shownOf es
  | .sampleSda d :: es => .sampleSda d :: shownOf es
  | .stretch _ :: es => shownOf es
  | .delay _ :: es => shownOf es

/-- The levels sampled in a trace. -/
def samplesOf : List BusEvent → List Level
  | [] => []
  | .sampleSda d :: es => d :: samplesOf es
  | .set _ _ :: es => samplesOf es
  | .stretch _ :: es => samplesOf es
  | .delay _ :: es => samplesOf es

/-- The sum of a trace's `Delay` events: the lower bound on its duration (R261). -/
def delaySum : List BusEvent → Nat
  | [] => 0
  | .delay us :: es => us + delaySum es
  | .set _ _ :: es => delaySum es
  | .stretch _ :: es => delaySum es
  | .sampleSda _ :: es => delaySum es

/-- The upper bound on a trace's waiting: its delays, and the stretch bound for each stretch wait (R55, R258). -/
def waitBound : List BusEvent → Nat
  | [] => 0
  | .delay us :: es => us + waitBound es
  | .stretch _ :: es => Config.stretchTimeoutUs + waitBound es
  | .set _ _ :: es => waitBound es
  | .sampleSda _ :: es => waitBound es

/-- The bus conditions of R11. -/
inductive Condition where
  | start
  | stop
  deriving DecidableEq, Repr

/-- The condition one change of SDA makes: none unless SCL is high and SDA moves (R11). -/
def sdaCondition (sda scl lvl : Level) : List Condition :=
  match scl, sda, lvl with
  | .high, .high, .low => [.start]
  | .high, .low, .high => [.stop]
  | .high, .high, .high => []
  | .high, .low, .low => []
  | .low, _, _ => []

/-- The START and STOP conditions in a trace that begins with the block's outputs at `sda` and `scl`, as far as the
block's own outputs make them (R11; no device holding a line). -/
def conditions : Level → Level → List BusEvent → List Condition
  | _, _, [] => []
  | sda, scl, .set .sda lvl :: es => sdaCondition sda scl lvl ++ conditions lvl scl es
  | sda, _, .set .scl lvl :: es => conditions sda lvl es
  | sda, scl, .stretch _ :: es => conditions sda scl es
  | sda, scl, .sampleSda _ :: es => conditions sda scl es
  | sda, scl, .delay _ :: es => conditions sda scl es

/-- Whether every sample in a trace is taken while the block has released SDA and SCL (R46, R128, R132). -/
def sampledReleased : Level → Level → List BusEvent → Bool
  | _, _, [] => true
  | _, scl, .set .sda lvl :: es => sampledReleased lvl scl es
  | sda, _, .set .scl lvl :: es => sampledReleased sda lvl es
  | sda, scl, .sampleSda _ :: es => sda == .high && scl == .high && sampledReleased sda scl es
  | sda, scl, .stretch _ :: es => sampledReleased sda scl es
  | sda, scl, .delay _ :: es => sampledReleased sda scl es

/-! ### The line sequences of the driver's rules -/

/-- `SDA↓ SCL↓` (R120). -/
def startSets : List (Line × Level) :=
  [(.sda, .low), (.scl, .low)]

/-- `SDA↑ SCL↑ SDA↓ SCL↓` (R122). -/
def repeatedStartSets : List (Line × Level) :=
  [(.sda, .high), (.scl, .high), (.sda, .low), (.scl, .low)]

/-- `SDA↓ SCL↑ SDA↑` (R124). -/
def stopSets : List (Line × Level) :=
  [(.sda, .low), (.scl, .high), (.sda, .high)]

/-- The opening of a request: START for BEGIN, else repeated START (R83, R172). -/
def openSets (beginBit : Bool) : List (Line × Level) :=
  if beginBit then startSets else repeatedStartSets

/-- The closing of a request's last chunk: STOP for END, else nothing (R83, R180, R184). -/
def closeSets (endBit : Bool) : List (Line × Level) :=
  if endBit then stopSets else []

/-- A byte's eight levels, most significant bit first (R43). -/
def levelsOf (b : Byte) : List Level :=
  [7, 6, 5, 4, 3, 2, 1, 0].map fun k => if b.toNat / 2 ^ k % 2 = 1 then .high else .low

/-- One clock pulse: `SCL↑ SCL↓`. -/
def pulseSets : List (Line × Level) :=
  [(.scl, .high), (.scl, .low)]

/-- One written byte: each level with its clock pulse, then SDA released and the ninth pulse (R127, vector D7). -/
def writeSets (b : Byte) : List (Line × Level) :=
  (levelsOf b).flatMap (fun d => (Line.sda, d) :: pulseSets) ++ (Line.sda, Level.high) :: pulseSets

/-- A bit on SDA and its clock pulse, as events. -/
def bitShown (d : Level) : List BusEvent :=
  [.set .sda d, .set .scl .high, .set .scl .low]

/-- One written byte with its acknowledge sample `d`, taken between the ninth `SCL↑` and `SCL↓` (R127, vector D7). -/
def writeShown (b : Byte) (d : Level) : List BusEvent :=
  (levelsOf b).flatMap bitShown ++ [.set .sda .high, .set .scl .high, .sampleSda d, .set .scl .low]

/-- One sampled bit: `SCL↑`, the sample, `SCL↓` (R130). -/
def sampledBitShown (d : Level) : List BusEvent :=
  [.set .scl .high, .sampleSda d, .set .scl .low]

/-- The end of a read byte: the acknowledge level, its pulse, SDA released (R130, R131). -/
def readAckShown (isLast : Bool) : List BusEvent :=
  [.set .sda (if isLast then .high else .low), .set .scl .high, .set .scl .low, .set .sda .high]

/-- One read byte with its eight samples (R130, vectors D9 and D10). -/
def readShown (isLast : Bool) (ds : List Level) : List BusEvent :=
  [.set .sda .high, .set .scl .low] ++ (ds.flatMap sampledBitShown ++ readAckShown isLast)

/-- The line sequence of several written bytes. -/
def writeAllSets (bs : List Byte) : List (Line × Level) :=
  bs.flatMap writeSets

/-- One read byte: SDA released, SCL low, eight pulses, the acknowledge level with its pulse, SDA released (R130,
vectors D9 and D10). -/
def readSets (isLast : Bool) : List (Line × Level) :=
  (Line.sda, Level.high) :: (Line.scl, Level.low) ::
    ((List.replicate 8 pulseSets).flatten ++
      (Line.sda, if isLast then Level.high else Level.low) :: (pulseSets ++ [(Line.sda, Level.high)]))

/-- The line sequence of the bytes number `done + 1` to `done + n` of a transfer of `len`: the block acknowledges each
but number `len` (R177). -/
def readAllSets (done len n : Nat) : List (Line × Level) :=
  (List.range n).flatMap fun k => readSets (decide (done + k + 1 = len))

/-! ### What the BUS agent answers -/

/-- The driver once the BUS agent has given its next `n` answers. -/
def dropAnswers : Nat → Bus → Bus
  | 0, u => u
  | n + 1, u => dropAnswers n u.dropSda

/-- The BUS agent's next `n` answers (those the state gives, then free ones). -/
def nextAnswers : Nat → Bus → List Level
  | 0, _ => []
  | n + 1, u => u.nextSda :: nextAnswers n u.dropSda

/-- The byte eight sampled levels stand for, most significant first (R43). -/
def byteOfLevels (ds : List Level) : Byte :=
  BitVec.ofNat 8 (ds.foldl (fun v d => 2 * v + (if d = .high then 1 else 0)) 0)

/-- `n` bytes from eight levels each. -/
def bytesOfLevels : Nat → List Level → List Byte
  | 0, _ => []
  | n + 1, ds => byteOfLevels (ds.take 8) :: bytesOfLevels n (ds.drop 8)

/-- The `n` bytes the BUS agent's next answers give. -/
def nextBytes (n : Nat) (u : Bus) : List Byte :=
  bytesOfLevels n (nextAnswers (8 * n) u)

/-! ### How the CLOCK agent ends the stretch waits -/

/-- The driver once the CLOCK agent has ended its next `n` waits. -/
def dropStretches : Nat → Bus → Bus
  | 0, u => u
  | n + 1, u => dropStretches n u.dropStretch

/-- The CLOCK agent's next `n` outcomes (those the state gives, then free ones). -/
def nextStretches : Nat → Bus → List Stretch
  | 0, _ => []
  | n + 1, u => u.nextStretch :: nextStretches n u.dropStretch

/-! ### Requests -/

/-- The four I2C_IO instructions, each with its BEGIN and END bits (R73, R195 to R198). -/
def ioForms : List ((SetupFields → Instr) × Bool × Bool) :=
  [(Instr.i2cIo, false, false), (Instr.i2cIoBegin, true, false), (Instr.i2cIoEnd, false, true),
    (Instr.i2cIoBeginEnd, true, true)]

/-- The pending transfer a request creates (R171): `sel[0]`, `sel[1]`, `value[0]`, `index[6:0]`, `length`, 0. -/
def createdPending (beginBit endBit : Bool) (f : SetupFields) : Pending :=
  { beginBit := beginBit, endBit := endBit, dir := if f.value.toNat % 2 = 1 then .read else .write,
    addr := BitVec.ofNat 7 f.index.toNat, len := f.length, done := 0#16 }

/-- The address byte `((index << 1) | dir) mod 256` (R78). -/
def wireAddress (f : SetupFields) : Byte :=
  BitVec.ofNat 8 (2 * f.index.toNat + f.value.toNat % 2)

/-- Whether the request reads: `value[0] = 1` (R75). -/
def isRead (f : SetupFields) : Bool :=
  f.value.toNat % 2 == 1

/-! ### Invariants -/

/-- Both lines released (R193). -/
def released (u : Bus) : Prop :=
  u.sdaOut = .high ∧ u.sclOut = .high

/-- The bus held: SCL low, SDA released (R193). -/
def held (u : Bus) : Prop :=
  u.sclOut = .low ∧ u.sdaOut = .high

/-- The invariants between HOST events (R252), with the bound of R29 on what is left. -/
def betweenEvents (s : State) : Prop :=
  (s.bus.busPhase = .busActive → s.bus.sclOut = .low) ∧
  (s.bus.busPhase = .busIdle → s.bus.sdaOut = .high ∧ s.bus.sclOut = .high) ∧
  (s.phase ≠ .idle → s.bus.busPhase = .busActive ∧ s.pend.done.toNat < s.pend.len.toNat) ∧
  (s.status = 0#8 ∨ s.status = 1#8 ∨ s.status = 2#8)

/-- A response within the bounds of R53. -/
def responseInBounds (r : Response) : Prop :=
  match r with
  | .reply bytes => bytes.length ≤ Config.cap
  | .expect n => 1 ≤ n ∧ n ≤ Config.cap
  | .accept => True
  | .stall _ => True

/-! ### Two states that differ only in what no rule lets out -/

/-- The states agree on all but the buffer's content and, while no transfer is pending, `pend` (R28, R30). -/
def agreeOnObservable (s t : State) : Prop :=
  s.bus = t.bus ∧ s.status = t.status ∧ s.phase = t.phase ∧ (s.phase ≠ .idle → s.pend = t.pend) ∧
  s.responses = t.responses ∧ s.inputs = t.inputs

/-- A trace with every stretch outcome read as Released. -/
def eraseStretch : List BusEvent → List BusEvent
  | [] => []
  | .stretch _ :: es => .stretch .released :: eraseStretch es
  | .set line lvl :: es => .set line lvl :: eraseStretch es
  | .sampleSda d :: es => .sampleSda d :: eraseStretch es
  | .delay us :: es => .delay us :: eraseStretch es

/-- The states agree on all but the CLOCK agent and the stretch outcomes in the trace (R104). -/
def agreeButStretch (s t : State) : Prop :=
  s.bus.sdaOut = t.bus.sdaOut ∧ s.bus.sclOut = t.bus.sclOut ∧ s.bus.delayBefore = t.bus.delayBefore ∧
  s.bus.delayAfter = t.bus.delayAfter ∧ s.bus.busPhase = t.bus.busPhase ∧
  eraseStretch s.bus.trace = eraseStretch t.bus.trace ∧ s.bus.busAnswers = t.bus.busAnswers ∧
  s.bus.busDrawn = t.bus.busDrawn ∧ s.status = t.status ∧ s.phase = t.phase ∧ s.pend = t.pend ∧ s.buf = t.buf ∧
  s.responses = t.responses ∧ s.inputs = t.inputs

end Sys2Proof.Safety
end

