-- ==== Sys2Proof/Certificates/Slice0/Obligations.lean ====
section
/-!
DEFINITION. The statements for the provers, from the numbered rules of spec/. A statement about every state holds in
states no run reaches too; where it needs an invariant, the invariant is a premise and a statement of its own.
-/

open Sys2Proof Sys2Proof.Machine Sys2Proof.Safety

/-! ### Requests: decoding and operands -/

/-- No bit of a request is dropped: the packet of an instruction decodes to it. -/
def Obligations.DecodeOfEncodeIsIdentity : Prop :=
  ∀ i : Instr, decode (encode i) = .ok i

/-- Each decodable packet is the packet of the one instruction it decodes to. -/
def Obligations.EncodeOfDecodeIsIdentity : Prop :=
  ∀ (bytes : List Byte) (i : Instr), decode bytes = .ok i → encode i = bytes

/-- R72, R74: the selector map is total, by the selector alone, and 8 to 255 are unsupported. -/
def Obligations.SelectorMapIsTotal : Prop :=
  ∀ r : Request,
    decodeRequest r =
      match r.sel.toNat with
      | 0 => .ok (.echo ⟨r.reqType, r.value, r.index, r.length⟩)
      | 1 => .ok (.getCapabilities ⟨r.reqType, r.value, r.index, r.length⟩)
      | 2 => .ok (.setClockPeriod ⟨r.reqType, r.value, r.index, r.length⟩)
      | 3 => .ok (.getStatus ⟨r.reqType, r.value, r.index, r.length⟩)
      | 4 => .ok (.i2cIo ⟨r.reqType, r.value, r.index, r.length⟩)
      | 5 => .ok (.i2cIoBegin ⟨r.reqType, r.value, r.index, r.length⟩)
      | 6 => .ok (.i2cIoEnd ⟨r.reqType, r.value, r.index, r.length⟩)
      | 7 => .ok (.i2cIoBeginEnd ⟨r.reqType, r.value, r.index, r.length⟩)
      | _ => .error (.unsupportedRequest r.sel)

/-- The packets E1 to E4 and E8 to E10 of 95_test_vectors.md. -/
def Obligations.SpecPacketsDecode : Prop :=
  decode [0xC1#8, 0x00#8, 0x34#8, 0x12#8, 0x00#8, 0x00#8, 0x02#8, 0x00#8] =
      .ok (.echo ⟨0xC1#8, 0x1234#16, 0#16, 2#16⟩) ∧
    decode [0x41#8, 0x07#8, 0x00#8, 0x00#8, 0x50#8, 0x00#8, 0x02#8, 0x00#8] =
      .ok (.i2cIoBeginEnd ⟨0x41#8, 0#16, 0x50#16, 2#16⟩) ∧
    decode [0xC1#8, 0x06#8, 0x01#8, 0x00#8, 0x50#8, 0x00#8, 0x02#8, 0x00#8] =
      .ok (.i2cIoEnd ⟨0xC1#8, 1#16, 0x50#16, 2#16⟩) ∧
    decode [0xC1#8, 0x04#8, 0x01#8, 0x00#8, 0x50#8, 0x00#8, 0x00#8, 0x01#8] =
      .ok (.i2cIo ⟨0xC1#8, 1#16, 0x50#16, 256#16⟩) ∧
    decode [0xC1#8, 0x08#8, 0x00#8, 0x00#8, 0x00#8, 0x00#8, 0x00#8, 0x00#8] = .error (.unsupportedRequest 8#8) ∧
    decode [0xC1#8, 0x0C#8, 0x00#8, 0x00#8, 0x00#8, 0x00#8, 0x00#8, 0x00#8] = .error (.unsupportedRequest 12#8) ∧
    decode [0xC1#8, 0xFF#8, 0x00#8, 0x00#8, 0x00#8, 0x00#8, 0x00#8, 0x00#8] = .error (.unsupportedRequest 255#8)

/-- R78: the address byte is `((index << 1) | dir) mod 256`, the address in bits 7:1 and the direction in bit 0.
That the direction is bit 0 of the value is R75's general knowledge (D3; log 8). -/
def Obligations.AddressByteIsAddressThenDirection : Prop :=
  ∀ f : SetupFields,
    (addressByte (addrOperand f) (dirOperand f)).toNat = (2 * f.index.toNat + f.value.toNat % 2) % 256 ∧
      (addressByte (addrOperand f) (dirOperand f)).extractLsb' 1 7 = f.index.extractLsb' 0 7 ∧
      (addressByte (addrOperand f) (dirOperand f)).getLsbD 0 = f.value.getLsbD 0

/-- The requests of the notation R85 decode, and are what a conforming host delivers (R54 H4 and H5, R71). -/
def Obligations.AssembledRequestsAreWellFormed : Prop :=
  ∀ l : AsmLine, ∃ i : Instr, decodeRequest l.request = .ok i ∧ i.wf = true

/-! ### A step -/

/-- A step runs the instruction the next setup packet decodes to, at the state that has taken it. -/
def Obligations.StepRunsDecodedInstruction : Prop :=
  (∀ (s : State) (bytes : List Byte) (r : Request) (i : Instr) (rest : List Input),
      packetRequest bytes = .ok r → decode bytes = .ok i → s.inputs = .host (.setup r) :: rest →
        step s = exec i { s with inputs := rest }) ∧
    ∀ (s : State) (nbits w : Nat) (i : Instr),
      decodeTableWord nbits w = some i → step (s.withFetchWord nbits w) = exec i s

/-- R53: every host event gets exactly one response, within R53's bounds. -/
def Obligations.EveryHostEventGetsOneResponse : Prop :=
  ∀ (s : State) (ev : HostEvent) (rest : List Input),
    betweenEvents s → s.inputs = .host ev :: rest →
      ∃ (t : State) (r : Response),
        step s = .next t ∧ t.responses = s.responses ++ [r] ∧ responseInBounds r ∧ t.inputs = rest

/-- With no event to come the block waits (R218; the step that changes nothing is the model's choice, log 10). -/
def Obligations.NoInputMeansWaiting : Prop :=
  ∀ s : State, s.inputs = [] → step s = .next s

/-! ### The stateless requests -/

/-- R153. -/
def Obligations.EchoRepliesValueBytes : Prop :=
  ∀ (f : SetupFields) (s : State),
    exec (.echo f) s =
      .next { s with
        responses := s.responses ++
          [.reply (List.take f.length.toNat
            [BitVec.ofNat 8 (f.value.toNat % 256), BitVec.ofNat 8 (f.value.toNat / 256)])] }

/-- R154. -/
def Obligations.GetCapabilitiesRepliesTheWord : Prop :=
  ∀ (f : SetupFields) (s : State),
    exec (.getCapabilities f) s =
      .next { s with
        responses := s.responses ++ [.reply (List.take f.length.toNat [0x19#8, 0x00#8, 0xFF#8, 0x0E#8])] }

/-- R156. -/
def Obligations.SetClockPeriodAcceptsAndDoesNothing : Prop :=
  ∀ (f : SetupFields) (s : State),
    exec (.setClockPeriod f) s = .next { s with responses := s.responses ++ [.accept] }

/-- R158. -/
def Obligations.GetStatusRepliesStatusByte : Prop :=
  ∀ (f : SetupFields) (s : State),
    exec (.getStatus f) s =
      .next { s with responses := s.responses ++ [.reply (List.take f.length.toNat [s.status])] }

/-- R151: a setup whose selector is not 4 to 7 writes no slot and makes no bus operation, whatever is pending.
The selector numbers are R72's general knowledge (D1; log 8). -/
def Obligations.StatelessSetupsWriteNoSlot : Prop :=
  ∀ (s : State) (r : Request) (rest : List Input),
    s.inputs = .host (.setup r) :: rest → (r.sel.toNat < 4 ∨ 8 ≤ r.sel.toNat) →
      ∃ x : Response, step s = .next { s with inputs := rest, responses := s.responses ++ [x] }

/-- R159, R213. -/
def Obligations.UnsupportedSelectorStalls : Prop :=
  ∀ (s : State) (r : Request) (rest : List Input),
    s.inputs = .host (.setup r) :: rest → 8 ≤ r.sel.toNat →
      step s = .next { s with inputs := rest, responses := s.responses ++ [.stall .unsupportedRequest] }

/-! ### The I2C_IO requests: the setup event -/

/-- R173, R211: an address NACK, for I2C_IO, I2C_IO_BEGIN, I2C_IO_END and I2C_IO_BEGIN_END, whatever the length. Status
code 2 and the direction bit are general knowledge in the spec itself (D2, D3; log 8). -/
def Obligations.AddressNackAborts : Prop :=
  ∀ (mk : SetupFields → Instr) (b e : Bool) (f : SetupFields) (s : State),
    (mk, b, e) ∈ ioForms → s.bus.nextSda = .high →
      ∃ t : State,
        exec (mk f) s = .next t ∧ t.status = 2#8 ∧ t.phase = .idle ∧ t.pend = createdPending b e f ∧
        released t.bus ∧ t.bus.busPhase = .busIdle ∧
        setsOf t.bus.trace = setsOf s.bus.trace ++ openSets b ++ writeSets (wireAddress f) ++ stopSets ∧
        samplesOf t.bus.trace = samplesOf s.bus.trace ++ [.high] ∧
        t.responses = s.responses ++ [.stall .addressNack] ∧
        t.buf = s.buf ∧ t.inputs = s.inputs ∧
        t.bus.delayBefore = s.bus.delayBefore ∧ t.bus.delayAfter = s.bus.delayAfter

/-- R174: an acknowledged request of length 0, for the four I2C_IO instructions (the bus-scan probe). Status code 1 and
the direction bit are general knowledge in the spec itself (D2, D3; log 8). -/
def Obligations.ZeroLengthRequestAccepts : Prop :=
  ∀ (mk : SetupFields → Instr) (b e : Bool) (f : SetupFields) (s : State),
    (mk, b, e) ∈ ioForms → s.bus.nextSda = .low → f.length = 0#16 →
      ∃ t : State,
        exec (mk f) s = .next t ∧ t.status = 1#8 ∧ t.phase = .idle ∧ t.pend = createdPending b e f ∧
        (if e then released t.bus ∧ t.bus.busPhase = .busIdle else held t.bus ∧ t.bus.busPhase = .busActive) ∧
        setsOf t.bus.trace = setsOf s.bus.trace ++ openSets b ++ writeSets (wireAddress f) ++ closeSets e ∧
        samplesOf t.bus.trace = samplesOf s.bus.trace ++ [.low] ∧
        t.responses = s.responses ++ [.accept] ∧
        t.buf = s.buf ∧ t.inputs = s.inputs ∧
        t.bus.delayBefore = s.bus.delayBefore ∧ t.bus.delayAfter = s.bus.delayAfter

/-- R181: an acknowledged write of length not 0 asks for its first chunk, for the four I2C_IO instructions. CAP = 64,
status code 1 and the direction bit are the spec's own (D8, D2, D3; log 8). -/
def Obligations.WriteSetupExpectsFirstChunk : Prop :=
  ∀ (mk : SetupFields → Instr) (b e : Bool) (f : SetupFields) (s : State),
    (mk, b, e) ∈ ioForms → s.bus.nextSda = .low → f.length ≠ 0#16 → isRead f = false →
      ∃ t : State,
        exec (mk f) s = .next t ∧ t.status = 1#8 ∧ t.phase = .outWait ∧ t.pend = createdPending b e f ∧
        held t.bus ∧ t.bus.busPhase = .busActive ∧
        setsOf t.bus.trace = setsOf s.bus.trace ++ openSets b ++ writeSets (wireAddress f) ∧
        samplesOf t.bus.trace = samplesOf s.bus.trace ++ [.low] ∧
        t.responses = s.responses ++ [.expect (min 64 f.length.toNat)] ∧
        t.buf = s.buf ∧ t.inputs = s.inputs ∧
        t.bus.delayBefore = s.bus.delayBefore ∧ t.bus.delayAfter = s.bus.delayAfter

/-- R175 to R178, R180: an acknowledged read of length not 0 reads and hands over its first chunk, for the four I2C_IO
instructions; the buffer changes only in the chunk's bytes. -/
def Obligations.ReadSetupRepliesFirstChunk : Prop :=
  ∀ (mk : SetupFields → Instr) (b e : Bool) (f : SetupFields) (s : State) (n : Nat) (bytes : List Byte),
    (mk, b, e) ∈ ioForms → s.bus.nextSda = .low → f.length ≠ 0#16 → isRead f = true → Memory.wf s.buf →
    n = min 64 f.length.toNat → bytes = nextBytes n s.bus.dropSda →
      ∃ t : State,
        exec (mk f) s = .next t ∧ t.status = 1#8 ∧
        t.phase = (if n = f.length.toNat then .idle else .inMore) ∧
        t.pend = { createdPending b e f with done := BitVec.ofNat 16 n } ∧
        (if n = f.length.toNat ∧ e = true then released t.bus ∧ t.bus.busPhase = .busIdle
          else held t.bus ∧ t.bus.busPhase = .busActive) ∧
        setsOf t.bus.trace =
          setsOf s.bus.trace ++ openSets b ++ writeSets (wireAddress f) ++ readAllSets 0 f.length.toNat n ++
            (if n = f.length.toNat then closeSets e else []) ∧
        samplesOf t.bus.trace = samplesOf s.bus.trace ++ [.low] ++ nextAnswers (8 * n) s.bus.dropSda ∧
        t.responses = s.responses ++ [.reply bytes] ∧
        (∀ k : Fin Config.cap, k.val < n → bytes[k.val]? = some (t.memRead k)) ∧
        (∀ k : Fin Config.cap, n ≤ k.val → t.memRead k = s.memRead k) ∧
        t.inputs = s.inputs ∧
        t.bus.delayBefore = s.bus.delayBefore ∧ t.bus.delayAfter = s.bus.delayAfter

/-- R187: the setup of an I2C_IO instruction does not depend on the transfer it finds pending. -/
def Obligations.NewSetupDiscardsPendingTransfer : Prop :=
  ∀ (mk : SetupFields → Instr) (b e : Bool) (f : SetupFields) (s : State) (p : Phase) (q : Pending),
    (mk, b, e) ∈ ioForms → exec (mk f) { s with phase := p, pend := q } = exec (mk f) s

/-! ### The data stage -/

/-- R176 to R180: `DataIn` while IN_MORE reads and hands over the next chunk. -/
def Obligations.DataInRepliesNextChunk : Prop :=
  ∀ (s : State) (rest : List Input) (n : Nat) (bytes : List Byte),
    s.inputs = .host .dataIn :: rest → s.phase = .inMore → s.pend.done.toNat < s.pend.len.toNat →
    s.bus.busPhase = .busActive → Memory.wf s.buf →
    n = min 64 (s.pend.len.toNat - s.pend.done.toNat) → bytes = nextBytes n s.bus →
      ∃ t : State,
        step s = .next t ∧ t.status = s.status ∧
        t.phase = (if s.pend.done.toNat + n = s.pend.len.toNat then .idle else .inMore) ∧
        t.pend = { s.pend with done := BitVec.ofNat 16 (s.pend.done.toNat + n) } ∧
        (if s.pend.done.toNat + n = s.pend.len.toNat ∧ s.pend.endBit = true then
            released t.bus ∧ t.bus.busPhase = .busIdle
          else held t.bus ∧ t.bus.busPhase = .busActive) ∧
        setsOf t.bus.trace =
          setsOf s.bus.trace ++ readAllSets s.pend.done.toNat s.pend.len.toNat n ++
            (if s.pend.done.toNat + n = s.pend.len.toNat then closeSets s.pend.endBit else []) ∧
        samplesOf t.bus.trace = samplesOf s.bus.trace ++ nextAnswers (8 * n) s.bus ∧
        t.responses = s.responses ++ [.reply bytes] ∧
        (∀ k : Fin Config.cap, k.val < n → bytes[k.val]? = some (t.memRead k)) ∧
        (∀ k : Fin Config.cap, n ≤ k.val → t.memRead k = s.memRead k) ∧
        t.inputs = rest ∧
        t.bus.delayBefore = s.bus.delayBefore ∧ t.bus.delayAfter = s.bus.delayAfter

/-- R182 to R185: `DataOut` while OUT_WAIT, every byte acknowledged: the first `m` bytes of the payload go to the
buffer and onto the bus, `m` the smaller of the payload and what was asked. -/
def Obligations.DataOutWritesAcknowledgedChunk : Prop :=
  ∀ (s : State) (payload : List Byte) (rest : List Input) (m : Nat),
    s.inputs = .host (.dataOut payload) :: rest → s.phase = .outWait → s.pend.done.toNat < s.pend.len.toNat →
    s.bus.busPhase = .busActive → held s.bus → Memory.wf s.buf →
    m = min payload.length (min 64 (s.pend.len.toNat - s.pend.done.toNat)) →
    nextAnswers m s.bus = List.replicate m .low →
      ∃ t : State,
        step s = .next t ∧ t.status = s.status ∧
        t.phase = (if s.pend.done.toNat + m = s.pend.len.toNat then .idle else .outWait) ∧
        t.pend = { s.pend with done := BitVec.ofNat 16 (s.pend.done.toNat + m) } ∧
        (if s.pend.done.toNat + m = s.pend.len.toNat ∧ s.pend.endBit = true then
            released t.bus ∧ t.bus.busPhase = .busIdle
          else held t.bus ∧ t.bus.busPhase = .busActive) ∧
        setsOf t.bus.trace =
          setsOf s.bus.trace ++ writeAllSets (payload.take m) ++
            (if s.pend.done.toNat + m = s.pend.len.toNat then closeSets s.pend.endBit else []) ∧
        samplesOf t.bus.trace = samplesOf s.bus.trace ++ List.replicate m .low ∧
        t.responses =
          s.responses ++
            [if s.pend.done.toNat + m = s.pend.len.toNat then .accept
              else .expect (min 64 (s.pend.len.toNat - s.pend.done.toNat - m))] ∧
        (∀ k : Fin Config.cap, k.val < m → payload[k.val]? = some (t.memRead k)) ∧
        (∀ k : Fin Config.cap, m ≤ k.val → t.memRead k = s.memRead k) ∧
        t.inputs = rest ∧
        t.bus.delayBefore = s.bus.delayBefore ∧ t.bus.delayAfter = s.bus.delayAfter

/-- R183, R212: the first byte not acknowledged (number `j`, from 0) ends the transfer: a forced stop, no later byte
written, `status` kept. That `status` is kept is the spec's own decision (D21), and so is CAP = 64 (D8; log 8). -/
def Obligations.DataNackAborts : Prop :=
  ∀ (s : State) (payload : List Byte) (rest : List Input) (m j : Nat),
    s.inputs = .host (.dataOut payload) :: rest → s.phase = .outWait → s.pend.done.toNat < s.pend.len.toNat →
    Memory.wf s.buf →
    m = min payload.length (min 64 (s.pend.len.toNat - s.pend.done.toNat)) → j < m →
    nextAnswers (j + 1) s.bus = List.replicate j .low ++ [.high] →
      ∃ t : State,
        step s = .next t ∧ t.status = s.status ∧ t.phase = .idle ∧
        t.pend = { s.pend with done := BitVec.ofNat 16 (s.pend.done.toNat + j + 1) } ∧
        released t.bus ∧ t.bus.busPhase = .busIdle ∧
        setsOf t.bus.trace = setsOf s.bus.trace ++ writeAllSets (payload.take (j + 1)) ++ stopSets ∧
        samplesOf t.bus.trace = samplesOf s.bus.trace ++ List.replicate j .low ++ [.high] ∧
        t.responses = s.responses ++ [.stall .dataNack] ∧
        (∀ k : Fin Config.cap, k.val < m → payload[k.val]? = some (t.memRead k)) ∧
        (∀ k : Fin Config.cap, m ≤ k.val → t.memRead k = s.memRead k) ∧
        t.inputs = rest ∧
        t.bus.delayBefore = s.bus.delayBefore ∧ t.bus.delayAfter = s.bus.delayAfter

/-- R186, R214: an event the phase does not expect writes no slot; the acknowledge stage never does. -/
def Obligations.UnexpectedEventsWriteNothing : Prop :=
  (∀ (s : State) (rest : List Input),
      s.inputs = .host .dataIn :: rest → s.phase ≠ .inMore →
        step s = .next { s with inputs := rest, responses := s.responses ++ [.stall .noDataStage] }) ∧
    (∀ (s : State) (bytes : List Byte) (rest : List Input),
      s.inputs = .host (.dataOut bytes) :: rest → s.phase ≠ .outWait →
        step s = .next { s with inputs := rest, responses := s.responses ++ [.stall .noDataStage] }) ∧
    ∀ (s : State) (rest : List Input),
      s.inputs = .host .statusAck :: rest →
        step s = .next { s with inputs := rest, responses := s.responses ++ [.accept] }

/-! ### The bus driver -/

/-- R100, R101, R103, R105: a `setLine` call waits, sets the line, waits for the line where it releases SCL, and waits
again; it writes that line's output and the trace, whether or not the level changes. One CLOCK outcome is taken at each
release of SCL, and none otherwise (D9; log 1). -/
def Obligations.SetLineWaitsSetsAndWaits : Prop :=
  ∀ (line : Line) (lvl : Level) (u : Bus),
    (u.setLine line lvl).trace =
        u.trace ++ [.delay u.delayBefore, .set line lvl] ++
          (if line = .scl ∧ lvl = .high then [.stretch u.nextStretch] else []) ++ [.delay u.delayAfter] ∧
      (u.setLine line lvl).sdaOut = (if line = .sda then lvl else u.sdaOut) ∧
      (u.setLine line lvl).sclOut = (if line = .scl then lvl else u.sclOut) ∧
      (u.setLine line lvl).busPhase = u.busPhase ∧
      (u.setLine line lvl).delayBefore = u.delayBefore ∧ (u.setLine line lvl).delayAfter = u.delayAfter ∧
      (u.setLine line lvl).busAnswers = u.busAnswers ∧ (u.setLine line lvl).busDrawn = u.busDrawn ∧
      (u.setLine line lvl).clockAnswers =
        (if line = .scl ∧ lvl = .high then u.dropStretch.clockAnswers else u.clockAnswers) ∧
      (u.setLine line lvl).clockDrawn = (if line = .scl ∧ lvl = .high then u.dropStretch.clockDrawn else u.clockDrawn)

/-- R46: a sample of SDA reads LOW, asking nobody, while the block drives it; else it is the BUS agent's answer, and
the trace says so. -/
def Obligations.SampleReadsDrivenLowOrBusAnswer : Prop :=
  ∀ u : Bus,
    (u.sdaOut = .low → u.sampleSda = (.low, u)) ∧
      (u.sdaOut = .high →
        u.sampleSda.1 = u.nextSda ∧ u.sampleSda.2.trace = u.trace ++ [.sampleSda u.nextSda] ∧
          { u.sampleSda.2 with trace := u.trace } = u.dropSda)

/-- R120. -/
def Obligations.StartDrivesSdaThenScl : Prop :=
  ∀ u : Bus,
    u.start.sdaOut = .low ∧ u.start.sclOut = .low ∧ u.start.busPhase = .busActive ∧
      setsOf u.start.trace = setsOf u.trace ++ [(.sda, .low), (.scl, .low)] ∧
      samplesOf u.start.trace = samplesOf u.trace ∧
      u.start.busAnswers = u.busAnswers ∧ u.start.busDrawn = u.busDrawn ∧
      u.start.clockAnswers = u.clockAnswers ∧ u.start.clockDrawn = u.clockDrawn

/-- R122. -/
def Obligations.RepeatedStartReleasesThenDrives : Prop :=
  ∀ u : Bus,
    u.repeatedStart.sdaOut = .low ∧ u.repeatedStart.sclOut = .low ∧ u.repeatedStart.busPhase = .busActive ∧
      setsOf u.repeatedStart.trace =
        setsOf u.trace ++ [(.sda, .high), (.scl, .high), (.sda, .low), (.scl, .low)] ∧
      samplesOf u.repeatedStart.trace = samplesOf u.trace ∧
      u.repeatedStart.busAnswers = u.busAnswers ∧ u.repeatedStart.busDrawn = u.busDrawn

/-- R124, R125. -/
def Obligations.StopReleasesBothLines : Prop :=
  ∀ u : Bus,
    u.stop.sdaOut = .high ∧ u.stop.sclOut = .high ∧ u.stop.busPhase = .busIdle ∧
      setsOf u.stop.trace = setsOf u.trace ++ [(.sda, .low), (.scl, .high), (.sda, .high)] ∧
      samplesOf u.stop.trace = samplesOf u.trace ∧
      u.stop.busAnswers = u.busAnswers ∧ u.stop.busDrawn = u.busDrawn

/-- R127, R128: 27 `Set` events, one sample, and `ack` is exactly the BUS agent's answer. -/
def Obligations.WriteSendsByteAndReturnsAck : Prop :=
  ∀ (b : Byte) (u : Bus),
    ((u.write b).1 = true ↔ u.nextSda = .low) ∧
      (u.write b).2.sdaOut = .high ∧ (u.write b).2.sclOut = .low ∧ (u.write b).2.busPhase = u.busPhase ∧
      setsOf (u.write b).2.trace = setsOf u.trace ++ writeSets b ∧
      shownOf (u.write b).2.trace = shownOf u.trace ++ writeShown b u.nextSda ∧
      samplesOf (u.write b).2.trace = samplesOf u.trace ++ [u.nextSda] ∧
      (u.write b).2.busAnswers = u.dropSda.busAnswers ∧ (u.write b).2.busDrawn = u.dropSda.busDrawn

/-- R130, R131: eight samples, most significant first, and the acknowledge bit `isLast` asks for. -/
def Obligations.ReadShiftsInByteAndStrobesAck : Prop :=
  ∀ (isLast : Bool) (u : Bus),
    (u.read isLast).1 = byteOfLevels (nextAnswers 8 u) ∧
      (u.read isLast).2.sdaOut = .high ∧ (u.read isLast).2.sclOut = .low ∧
      (u.read isLast).2.busPhase = u.busPhase ∧
      setsOf (u.read isLast).2.trace = setsOf u.trace ++ readSets isLast ∧
      shownOf (u.read isLast).2.trace = shownOf u.trace ++ readShown isLast (nextAnswers 8 u) ∧
      samplesOf (u.read isLast).2.trace = samplesOf u.trace ++ nextAnswers 8 u ∧
      (u.read isLast).2.busAnswers = (dropAnswers 8 u).busAnswers ∧
      (u.read isLast).2.busDrawn = (dropAnswers 8 u).busDrawn

/-- R120, R121: `start()` makes a START condition on a released bus, and none while SCL is low. -/
def Obligations.StartConditionNeedsReleasedBus : Prop :=
  ∀ (u : Bus) (added : List BusEvent),
    u.start.trace = u.trace ++ added →
      conditions u.sdaOut u.sclOut added =
        if u.sdaOut = .high ∧ u.sclOut = .high then [.start] else []

/-- R122, R123: `repeatedStart()` makes one START condition, from a held and from an idle bus. -/
def Obligations.RepeatedStartMakesOneStart : Prop :=
  ∀ (u : Bus) (added : List BusEvent),
    u.repeatedStart.trace = u.trace ++ added → (u.sclOut = .low ∨ u.sdaOut = .high) →
      conditions u.sdaOut u.sclOut added = [.start]

/-- R124, R126: `stop()` makes a STOP from a held bus, and an empty START-STOP pair on a released one. -/
def Obligations.StopConditionsFromHeldAndReleased : Prop :=
  ∀ (u : Bus) (added : List BusEvent),
    u.stop.trace = u.trace ++ added →
      (u.sclOut = .low → conditions u.sdaOut u.sclOut added = [.stop]) ∧
        (u.sclOut = .high → u.sdaOut = .high → conditions u.sdaOut u.sclOut added = [.start, .stop])

/-- R108, R261: how many delay pairs each driver operation waits. -/
def Obligations.DriverOperationsDelayBySetLineCount : Prop :=
  ∀ u : Bus,
    delaySum u.start.trace = delaySum u.trace + 2 * (u.delayBefore + u.delayAfter) ∧
      delaySum u.repeatedStart.trace = delaySum u.trace + 4 * (u.delayBefore + u.delayAfter) ∧
      delaySum u.stop.trace = delaySum u.trace + 3 * (u.delayBefore + u.delayAfter) ∧
      (∀ b : Byte, delaySum (u.write b).2.trace = delaySum u.trace + 27 * (u.delayBefore + u.delayAfter)) ∧
      ∀ l : Bool, delaySum (u.read l).2.trace = delaySum u.trace + 22 * (u.delayBefore + u.delayAfter)

/-- R107, with the bands of R106: the delay pair under either rounding. -/
def Obligations.DelayPairMeetsPeriod : Prop :=
  ∀ (r : Rounding) (p : Nat),
    p ≤ 2 * ((delayPair r p).1 + (delayPair r p).2) ∧
      (3 ≤ p → 2 * ((delayPair r p).1 + (delayPair r p).2) ≤ p + 2) ∧
      (p < 3 → delayPair r p = (0, 1)) ∧
      (3 ≤ p → p < 5 → delayPair r p = (1, 1)) ∧
      (5 ≤ p → 2 * ((delayPair r p).1 + (delayPair r p).2) = p + p % 2)

/-! ### Reset -/

/-- R37: the slots the spec gives a reset value. -/
def Obligations.ResetValuesOfEverySlot : Prop :=
  State.reset.bus.sdaOut = .high ∧ State.reset.bus.sclOut = .high ∧ State.reset.bus.delayBefore = 0 ∧
    State.reset.bus.delayAfter = 1 ∧ State.reset.status = 0#8 ∧ State.reset.phase = .idle ∧
    State.reset.bus.busPhase = .busIdle ∧ State.reset.bus.trace = []

/-- R240, R241: a device reset re-initialises the slots from every state and adds no trace event. That it is an input,
which the step takes, and that the answers of the BUS and CLOCK agents stay, are the model's choice (log 4). -/
def Obligations.DeviceResetReinitialisesSlots : Prop :=
  ∀ (s : State) (rest : List Input),
    s.inputs = .reset :: rest →
      ∃ t : State,
        step s = .next t ∧ t.bus.sdaOut = .high ∧ t.bus.sclOut = .high ∧ t.bus.delayBefore = 0 ∧
        t.bus.delayAfter = 1 ∧ t.status = 0#8 ∧ t.phase = .idle ∧ t.bus.busPhase = .busIdle ∧ t.bus.trace = [] ∧
        t.inputs = rest ∧ t.bus.busAnswers = s.bus.busAnswers ∧ t.bus.busDrawn = s.bus.busDrawn ∧
        t.bus.clockAnswers = s.bus.clockAnswers ∧ t.bus.clockDrawn = s.bus.clockDrawn

/-- The invariants of R252 and the buffer's canonical form hold after reset. -/
def Obligations.ResetMeetsInvariants : Prop :=
  betweenEvents State.reset ∧ (State.reset.bus.busPhase = .busActive → held State.reset.bus) ∧
    Memory.wf State.reset.buf

/-! ### The whole machine -/

/-- R252, R29: every step keeps the invariants between host events. -/
def Obligations.StepKeepsBetweenEvents : Prop :=
  ∀ s t : State, betweenEvents s → step s = .next t → betweenEvents t

/-- R193, R134: between host events the bus is held (SCL low, SDA released) or released, as `bus_phase` says. -/
def Obligations.StepKeepsBusHeldOrReleased : Prop :=
  ∀ s t : State,
    betweenEvents s → (s.bus.busPhase = .busActive → held s.bus) → step s = .next t →
      (t.bus.busPhase = .busActive → held t.bus) ∧ (t.bus.busPhase = .busIdle → released t.bus)

/-- Every step keeps the buffer's canonical form (the model's own form of R30's array). -/
def Obligations.StepKeepsBufferCanonical : Prop :=
  ∀ s t : State, Memory.wf s.buf → step s = .next t → Memory.wf t.buf

/-- R109: the timing pair keeps its reset value for the life of the device. That this value is (0, 1) is R37's, from the
spec's own decision on the period at reset (D13; log 8). -/
def Obligations.TimingPairNeverChanges : Prop :=
  ∀ s t : State,
    s.bus.delayBefore = 0 → s.bus.delayAfter = 1 → step s = .next t →
      t.bus.delayBefore = 0 ∧ t.bus.delayAfter = 1

/-- R27: no host event other than an I2C_IO setup writes `status`; that setup writes the result of its address
phase. The codes 1 and 2 and the selectors 4 to 7 are general knowledge in the spec itself (D2, D1; log 8), and that a
data NACK leaves `status` is its own decision (D21). -/
def Obligations.StatusIsTheLastAddressPhase : Prop :=
  ∀ (s t : State) (ev : HostEvent) (rest : List Input),
    s.inputs = .host ev :: rest → step s = .next t →
      ((∀ r : Request, ev = .setup r → r.sel.toNat < 4 ∨ 8 ≤ r.sel.toNat) → t.status = s.status) ∧
        ∀ r : Request, ev = .setup r → 4 ≤ r.sel.toNat → r.sel.toNat < 8 →
          t.status = if s.bus.nextSda = .low then 1#8 else 2#8

/-- R48: handling a host event only appends to the bus trace. -/
def Obligations.TraceOnlyGrows : Prop :=
  ∀ (s t : State) (ev : HostEvent) (rest : List Input),
    s.inputs = .host ev :: rest → step s = .next t →
      ∃ added : List BusEvent, t.bus.trace = s.bus.trace ++ added

/-- R46: every sample of SDA is taken while the block has released SDA, and SCL. -/
def Obligations.SdaIsSampledOnlyWhileReleased : Prop :=
  ∀ (s t : State) (ev : HostEvent) (rest : List Input) (added : List BusEvent),
    s.inputs = .host ev :: rest → step s = .next t → t.bus.trace = s.bus.trace ++ added →
      sampledReleased s.bus.sdaOut s.bus.sclOut added = true

/-- R45, R46: the samples of a step are the BUS agent's next answers, in order, and only a sample takes one. -/
def Obligations.EverySampleIsTheNextBusAnswer : Prop :=
  ∀ (s t : State) (ev : HostEvent) (rest : List Input),
    s.inputs = .host ev :: rest → step s = .next t →
      ∃ n : Nat,
        samplesOf t.bus.trace = samplesOf s.bus.trace ++ nextAnswers n s.bus ∧
          t.bus.busAnswers = (dropAnswers n s.bus).busAnswers ∧ t.bus.busDrawn = (dropAnswers n s.bus).busDrawn

/-- R103: the stretch outcomes of a step are the CLOCK agent's next ones, in order, and only a stretch wait takes one. -/
def Obligations.EveryStretchIsTheNextClockOutcome : Prop :=
  ∀ (s t : State) (ev : HostEvent) (rest : List Input),
    s.inputs = .host ev :: rest → step s = .next t →
      ∃ n : Nat,
        stretchesOf t.bus.trace = stretchesOf s.bus.trace ++ nextStretches n s.bus ∧
          t.bus.clockAnswers = (dropStretches n s.bus).clockAnswers ∧
          t.bus.clockDrawn = (dropStretches n s.bus).clockDrawn

/-- R55, R258: a handler makes at most `34 + 27 * CAP` `setLine` calls, and its waiting is bounded by as many delay
pairs and stretch timeouts. -/
def Obligations.EveryHandlerIsBounded : Prop :=
  ∀ (s t : State) (ev : HostEvent) (rest : List Input) (added : List BusEvent),
    s.inputs = .host ev :: rest → step s = .next t → t.bus.trace = s.bus.trace ++ added →
      (setsOf added).length ≤ 34 + 27 * Config.cap ∧
        waitBound added ≤
          (34 + 27 * Config.cap) * (s.bus.delayBefore + s.bus.delayAfter + Config.stretchTimeoutUs)

/-- R83, R251: what an I2C_IO setup puts on the bus between its bits: a START unless BEGIN is set on a held bus, and a
STOP exactly when the handler leaves the bus released. -/
def Obligations.SetupFrameConditions : Prop :=
  ∀ (mk : SetupFields → Instr) (b e : Bool) (f : SetupFields) (s t : State) (added : List BusEvent),
    (mk, b, e) ∈ ioForms → (held s.bus ∨ released s.bus) → exec (mk f) s = .next t →
    t.bus.trace = s.bus.trace ++ added →
      conditions s.bus.sdaOut s.bus.sclOut added =
        (if b = true ∧ s.bus.sclOut = .low then [] else [.start]) ++
          (if t.bus.busPhase = .busIdle then [.stop] else [])

/-- R83, R188: no START or STOP appears in a data stage but the STOP that ends it. -/
def Obligations.DataStageMakesNoConditionButStop : Prop :=
  ∀ (s t : State) (ev : HostEvent) (rest : List Input) (added : List BusEvent),
    s.inputs = .host ev :: rest → (ev = .dataIn ∨ ∃ bytes, ev = .dataOut bytes) →
    held s.bus → s.bus.busPhase = .busActive → step s = .next t → t.bus.trace = s.bus.trace ++ added →
      conditions s.bus.sdaOut s.bus.sclOut added = if t.bus.busPhase = .busIdle then [.stop] else []

/-- R28, R30, R42: the buffer's old content, and `pend` while no transfer is pending, reach neither the responses nor
the bus nor any slot the host can observe, at any step. -/
def Obligations.OldBufferAndIdlePendAreNeverObserved : Prop :=
  ∀ s t : State,
    agreeOnObservable s t → Memory.wf s.buf → Memory.wf t.buf →
      ∃ s' t' : State,
        step s = .next s' ∧ step t = .next t' ∧ agreeOnObservable s' t' ∧ Memory.wf s'.buf ∧ Memory.wf t'.buf

/-- R104: a stretch timeout changes nothing but its own trace event. -/
def Obligations.StretchOutcomeChangesOnlyTheTrace : Prop :=
  ∀ s t : State,
    agreeButStretch s t →
      ∃ s' t' : State, step s = .next s' ∧ step t = .next t' ∧ agreeButStretch s' t'

/-! ### The host's loop -/

/-- R86, R87: the host loop's run of `PROBE a` is OK with no bytes when a device acknowledges, and STALL when none
does. -/
def Obligations.HostRunOfProbeReportsDevice : Prop :=
  ∀ (a : Half) (fuel : Nat) (s : State),
    (hostRun (fuel + 1) (AsmLine.request (.io true true .write a 0#16 [])) [] s).1 =
      if s.bus.nextSda = .low then .ok [] else .stall []
end

