-- ==== Sys2Proof/Laws/State.lean ====
section
/-!
SUPPORT. One lemma per field per update of the state: later proofs never unfold a record update.
-/

namespace Sys2Proof.Machine

/-! ### `emit` -/

@[simp] theorem Bus.emit_sdaOut (e : BusEvent) (u : Bus) : (u.emit e).sdaOut = u.sdaOut := rfl
@[simp] theorem Bus.emit_sclOut (e : BusEvent) (u : Bus) : (u.emit e).sclOut = u.sclOut := rfl
@[simp] theorem Bus.emit_delayBefore (e : BusEvent) (u : Bus) : (u.emit e).delayBefore = u.delayBefore := rfl
@[simp] theorem Bus.emit_delayAfter (e : BusEvent) (u : Bus) : (u.emit e).delayAfter = u.delayAfter := rfl
@[simp] theorem Bus.emit_busPhase (e : BusEvent) (u : Bus) : (u.emit e).busPhase = u.busPhase := rfl
@[simp] theorem Bus.emit_trace (e : BusEvent) (u : Bus) : (u.emit e).trace = u.trace ++ [e] := rfl
@[simp] theorem Bus.emit_busAnswers (e : BusEvent) (u : Bus) : (u.emit e).busAnswers = u.busAnswers := rfl
@[simp] theorem Bus.emit_busDrawn (e : BusEvent) (u : Bus) : (u.emit e).busDrawn = u.busDrawn := rfl
@[simp] theorem Bus.emit_clockAnswers (e : BusEvent) (u : Bus) : (u.emit e).clockAnswers = u.clockAnswers := rfl
@[simp] theorem Bus.emit_clockDrawn (e : BusEvent) (u : Bus) : (u.emit e).clockDrawn = u.clockDrawn := rfl

/-! ### `wait` -/

@[simp] theorem Bus.wait_sdaOut (us : Nat) (u : Bus) : (u.wait us).sdaOut = u.sdaOut := rfl
@[simp] theorem Bus.wait_sclOut (us : Nat) (u : Bus) : (u.wait us).sclOut = u.sclOut := rfl
@[simp] theorem Bus.wait_delayBefore (us : Nat) (u : Bus) : (u.wait us).delayBefore = u.delayBefore := rfl
@[simp] theorem Bus.wait_delayAfter (us : Nat) (u : Bus) : (u.wait us).delayAfter = u.delayAfter := rfl
@[simp] theorem Bus.wait_busPhase (us : Nat) (u : Bus) : (u.wait us).busPhase = u.busPhase := rfl
@[simp] theorem Bus.wait_trace (us : Nat) (u : Bus) : (u.wait us).trace = u.trace ++ [.delay us] := rfl
@[simp] theorem Bus.wait_busAnswers (us : Nat) (u : Bus) : (u.wait us).busAnswers = u.busAnswers := rfl
@[simp] theorem Bus.wait_busDrawn (us : Nat) (u : Bus) : (u.wait us).busDrawn = u.busDrawn := rfl
@[simp] theorem Bus.wait_clockAnswers (us : Nat) (u : Bus) : (u.wait us).clockAnswers = u.clockAnswers := rfl
@[simp] theorem Bus.wait_clockDrawn (us : Nat) (u : Bus) : (u.wait us).clockDrawn = u.clockDrawn := rfl

/-! ### `setOut .sda` -/

@[simp] theorem Bus.setOut_sda_sdaOut (lvl : Level) (u : Bus) : (u.setOut .sda lvl).sdaOut = lvl := rfl
@[simp] theorem Bus.setOut_sda_sclOut (lvl : Level) (u : Bus) : (u.setOut .sda lvl).sclOut = u.sclOut := rfl
@[simp] theorem Bus.setOut_sda_delayBefore (lvl : Level) (u : Bus) : (u.setOut .sda lvl).delayBefore = u.delayBefore := rfl
@[simp] theorem Bus.setOut_sda_delayAfter (lvl : Level) (u : Bus) : (u.setOut .sda lvl).delayAfter = u.delayAfter := rfl
@[simp] theorem Bus.setOut_sda_busPhase (lvl : Level) (u : Bus) : (u.setOut .sda lvl).busPhase = u.busPhase := rfl
@[simp] theorem Bus.setOut_sda_trace (lvl : Level) (u : Bus) : (u.setOut .sda lvl).trace = u.trace := rfl
@[simp] theorem Bus.setOut_sda_busAnswers (lvl : Level) (u : Bus) : (u.setOut .sda lvl).busAnswers = u.busAnswers := rfl
@[simp] theorem Bus.setOut_sda_busDrawn (lvl : Level) (u : Bus) : (u.setOut .sda lvl).busDrawn = u.busDrawn := rfl
@[simp] theorem Bus.setOut_sda_clockAnswers (lvl : Level) (u : Bus) : (u.setOut .sda lvl).clockAnswers = u.clockAnswers := rfl
@[simp] theorem Bus.setOut_sda_clockDrawn (lvl : Level) (u : Bus) : (u.setOut .sda lvl).clockDrawn = u.clockDrawn := rfl

/-! ### `setOut .scl` -/

@[simp] theorem Bus.setOut_scl_sdaOut (lvl : Level) (u : Bus) : (u.setOut .scl lvl).sdaOut = u.sdaOut := rfl
@[simp] theorem Bus.setOut_scl_sclOut (lvl : Level) (u : Bus) : (u.setOut .scl lvl).sclOut = lvl := rfl
@[simp] theorem Bus.setOut_scl_delayBefore (lvl : Level) (u : Bus) : (u.setOut .scl lvl).delayBefore = u.delayBefore := rfl
@[simp] theorem Bus.setOut_scl_delayAfter (lvl : Level) (u : Bus) : (u.setOut .scl lvl).delayAfter = u.delayAfter := rfl
@[simp] theorem Bus.setOut_scl_busPhase (lvl : Level) (u : Bus) : (u.setOut .scl lvl).busPhase = u.busPhase := rfl
@[simp] theorem Bus.setOut_scl_trace (lvl : Level) (u : Bus) : (u.setOut .scl lvl).trace = u.trace := rfl
@[simp] theorem Bus.setOut_scl_busAnswers (lvl : Level) (u : Bus) : (u.setOut .scl lvl).busAnswers = u.busAnswers := rfl
@[simp] theorem Bus.setOut_scl_busDrawn (lvl : Level) (u : Bus) : (u.setOut .scl lvl).busDrawn = u.busDrawn := rfl
@[simp] theorem Bus.setOut_scl_clockAnswers (lvl : Level) (u : Bus) : (u.setOut .scl lvl).clockAnswers = u.clockAnswers := rfl
@[simp] theorem Bus.setOut_scl_clockDrawn (lvl : Level) (u : Bus) : (u.setOut .scl lvl).clockDrawn = u.clockDrawn := rfl

/-! ### `setClockPeriod` -/

@[simp] theorem Bus.setClockPeriod_sdaOut (p : Nat) (u : Bus) : (u.setClockPeriod p).sdaOut = u.sdaOut := rfl
@[simp] theorem Bus.setClockPeriod_sclOut (p : Nat) (u : Bus) : (u.setClockPeriod p).sclOut = u.sclOut := rfl
@[simp] theorem Bus.setClockPeriod_delayBefore (p : Nat) (u : Bus) : (u.setClockPeriod p).delayBefore = (delayPair Config.evenRounding p).1 := rfl
@[simp] theorem Bus.setClockPeriod_delayAfter (p : Nat) (u : Bus) : (u.setClockPeriod p).delayAfter = (delayPair Config.evenRounding p).2 := rfl
@[simp] theorem Bus.setClockPeriod_busPhase (p : Nat) (u : Bus) : (u.setClockPeriod p).busPhase = u.busPhase := rfl
@[simp] theorem Bus.setClockPeriod_trace (p : Nat) (u : Bus) : (u.setClockPeriod p).trace = u.trace := rfl
@[simp] theorem Bus.setClockPeriod_busAnswers (p : Nat) (u : Bus) : (u.setClockPeriod p).busAnswers = u.busAnswers := rfl
@[simp] theorem Bus.setClockPeriod_busDrawn (p : Nat) (u : Bus) : (u.setClockPeriod p).busDrawn = u.busDrawn := rfl
@[simp] theorem Bus.setClockPeriod_clockAnswers (p : Nat) (u : Bus) : (u.setClockPeriod p).clockAnswers = u.clockAnswers := rfl
@[simp] theorem Bus.setClockPeriod_clockDrawn (p : Nat) (u : Bus) : (u.setClockPeriod p).clockDrawn = u.clockDrawn := rfl

/-! ### `respond` -/

@[simp] theorem State.respond_bus (r : Response) (s : State) : (s.respond r).bus = s.bus := rfl
@[simp] theorem State.respond_status (r : Response) (s : State) : (s.respond r).status = s.status := rfl
@[simp] theorem State.respond_phase (r : Response) (s : State) : (s.respond r).phase = s.phase := rfl
@[simp] theorem State.respond_pend (r : Response) (s : State) : (s.respond r).pend = s.pend := rfl
@[simp] theorem State.respond_buf (r : Response) (s : State) : (s.respond r).buf = s.buf := rfl
@[simp] theorem State.respond_responses (r : Response) (s : State) : (s.respond r).responses = s.responses ++ [r] := rfl
@[simp] theorem State.respond_inputs (r : Response) (s : State) : (s.respond r).inputs = s.inputs := rfl

/-! ### `raiseStall` -/

@[simp] theorem State.raiseStall_bus (r : StallReason) (s : State) : (s.raiseStall r).bus = s.bus := rfl
@[simp] theorem State.raiseStall_status (r : StallReason) (s : State) : (s.raiseStall r).status = s.status := rfl
@[simp] theorem State.raiseStall_phase (r : StallReason) (s : State) : (s.raiseStall r).phase = s.phase := rfl
@[simp] theorem State.raiseStall_pend (r : StallReason) (s : State) : (s.raiseStall r).pend = s.pend := rfl
@[simp] theorem State.raiseStall_buf (r : StallReason) (s : State) : (s.raiseStall r).buf = s.buf := rfl
@[simp] theorem State.raiseStall_responses (r : StallReason) (s : State) : (s.raiseStall r).responses = s.responses ++ [.stall r] := rfl
@[simp] theorem State.raiseStall_inputs (r : StallReason) (s : State) : (s.raiseStall r).inputs = s.inputs := rfl

/-! ### `memWrite` -/

@[simp] theorem State.memWrite_bus (i : Fin Config.cap) (v : Byte) (s : State) : (s.memWrite i v).bus = s.bus := rfl
@[simp] theorem State.memWrite_status (i : Fin Config.cap) (v : Byte) (s : State) : (s.memWrite i v).status = s.status := rfl
@[simp] theorem State.memWrite_phase (i : Fin Config.cap) (v : Byte) (s : State) : (s.memWrite i v).phase = s.phase := rfl
@[simp] theorem State.memWrite_pend (i : Fin Config.cap) (v : Byte) (s : State) : (s.memWrite i v).pend = s.pend := rfl
@[simp] theorem State.memWrite_buf (i : Fin Config.cap) (v : Byte) (s : State) : (s.memWrite i v).buf = Memory.set i.val v s.buf := rfl
@[simp] theorem State.memWrite_responses (i : Fin Config.cap) (v : Byte) (s : State) : (s.memWrite i v).responses = s.responses := rfl
@[simp] theorem State.memWrite_inputs (i : Fin Config.cap) (v : Byte) (s : State) : (s.memWrite i v).inputs = s.inputs := rfl

/-! ### `deviceReset` -/

@[simp] theorem State.deviceReset_status (s : State) : s.deviceReset.status = Config.statusIdle := rfl
@[simp] theorem State.deviceReset_phase (s : State) : s.deviceReset.phase = .idle := rfl
@[simp] theorem State.deviceReset_pend (s : State) : s.deviceReset.pend = Pending.reset := rfl
@[simp] theorem State.deviceReset_buf (s : State) : s.deviceReset.buf = [] := rfl
@[simp] theorem State.deviceReset_responses (s : State) : s.deviceReset.responses = [] := rfl
@[simp] theorem State.deviceReset_inputs (s : State) : s.deviceReset.inputs = s.inputs := rfl
@[simp] theorem State.deviceReset_sdaOut (s : State) : s.deviceReset.bus.sdaOut = .high := rfl
@[simp] theorem State.deviceReset_sclOut (s : State) : s.deviceReset.bus.sclOut = .high := rfl
@[simp] theorem State.deviceReset_busPhase (s : State) : s.deviceReset.bus.busPhase = .busIdle := rfl
@[simp] theorem State.deviceReset_trace (s : State) : s.deviceReset.bus.trace = [] := rfl
@[simp] theorem State.deviceReset_delayBefore (s : State) : s.deviceReset.bus.delayBefore = State.reset.bus.delayBefore := rfl
@[simp] theorem State.deviceReset_delayAfter (s : State) : s.deviceReset.bus.delayAfter = State.reset.bus.delayAfter := rfl
@[simp] theorem State.deviceReset_busAnswers (s : State) : s.deviceReset.bus.busAnswers = s.bus.busAnswers := rfl
@[simp] theorem State.deviceReset_busDrawn (s : State) : s.deviceReset.bus.busDrawn = s.bus.busDrawn := rfl
@[simp] theorem State.deviceReset_clockAnswers (s : State) : s.deviceReset.bus.clockAnswers = s.bus.clockAnswers := rfl
@[simp] theorem State.deviceReset_clockDrawn (s : State) : s.deviceReset.bus.clockDrawn = s.bus.clockDrawn := rfl

/-! ### `dropSda`: only its own agent's fields change -/

@[simp] theorem Bus.dropSda_sdaOut (u : Bus) : u.dropSda.sdaOut = u.sdaOut := by
  unfold Bus.dropSda; split <;> rfl
@[simp] theorem Bus.dropSda_sclOut (u : Bus) : u.dropSda.sclOut = u.sclOut := by
  unfold Bus.dropSda; split <;> rfl
@[simp] theorem Bus.dropSda_delayBefore (u : Bus) : u.dropSda.delayBefore = u.delayBefore := by
  unfold Bus.dropSda; split <;> rfl
@[simp] theorem Bus.dropSda_delayAfter (u : Bus) : u.dropSda.delayAfter = u.delayAfter := by
  unfold Bus.dropSda; split <;> rfl
@[simp] theorem Bus.dropSda_busPhase (u : Bus) : u.dropSda.busPhase = u.busPhase := by
  unfold Bus.dropSda; split <;> rfl
@[simp] theorem Bus.dropSda_trace (u : Bus) : u.dropSda.trace = u.trace := by
  unfold Bus.dropSda; split <;> rfl
@[simp] theorem Bus.dropSda_clockAnswers (u : Bus) : u.dropSda.clockAnswers = u.clockAnswers := by
  unfold Bus.dropSda; split <;> rfl
@[simp] theorem Bus.dropSda_clockDrawn (u : Bus) : u.dropSda.clockDrawn = u.clockDrawn := by
  unfold Bus.dropSda; split <;> rfl

/-! ### `dropStretch`: only its own agent's fields change -/

@[simp] theorem Bus.dropStretch_sdaOut (u : Bus) : u.dropStretch.sdaOut = u.sdaOut := by
  unfold Bus.dropStretch; split <;> rfl
@[simp] theorem Bus.dropStretch_sclOut (u : Bus) : u.dropStretch.sclOut = u.sclOut := by
  unfold Bus.dropStretch; split <;> rfl
@[simp] theorem Bus.dropStretch_delayBefore (u : Bus) : u.dropStretch.delayBefore = u.delayBefore := by
  unfold Bus.dropStretch; split <;> rfl
@[simp] theorem Bus.dropStretch_delayAfter (u : Bus) : u.dropStretch.delayAfter = u.delayAfter := by
  unfold Bus.dropStretch; split <;> rfl
@[simp] theorem Bus.dropStretch_busPhase (u : Bus) : u.dropStretch.busPhase = u.busPhase := by
  unfold Bus.dropStretch; split <;> rfl
@[simp] theorem Bus.dropStretch_trace (u : Bus) : u.dropStretch.trace = u.trace := by
  unfold Bus.dropStretch; split <;> rfl
@[simp] theorem Bus.dropStretch_busAnswers (u : Bus) : u.dropStretch.busAnswers = u.busAnswers := by
  unfold Bus.dropStretch; split <;> rfl
@[simp] theorem Bus.dropStretch_busDrawn (u : Bus) : u.dropStretch.busDrawn = u.busDrawn := by
  unfold Bus.dropStretch; split <;> rfl

end Sys2Proof.Machine
end

