-- ==== Sys2Proof/Laws/Memory.lean ====
section
/-!
SUPPORT. The staging buffer: a read after a write to the same index gives the byte written, a write leaves every other
index alone, and every write keeps the canonical form.
-/

namespace Sys2Proof.Machine

theorem Memory.get_append_cell_same (a : Nat) (v : Byte) (m : List Host.Cell) (h : ∀ c ∈ m, a < c.1) :
    Memory.get a (Memory.cell a v ++ m) = v := by
  unfold Memory.cell
  split
  · next hv =>
    subst hv
    induction m with
    | nil => rfl
    | cons c m ih =>
      have hc : a ≠ c.1 := Nat.ne_of_lt (h c (by simp))
      simp only [List.nil_append] at ih ⊢
      rw [Memory.get, if_neg hc]
      exact ih fun d hd => h d (List.mem_cons_of_mem _ hd)
  · simp [Memory.get]

theorem Memory.get_cell_other {a b : Nat} (v : Byte) (m : List Host.Cell) (h : b ≠ a) :
    Memory.get b (Memory.cell a v ++ m) = Memory.get b m := by
  unfold Memory.cell
  split
  · rfl
  · simp [Memory.get, h]

/-- A read of the index just written gives the byte written. -/
theorem Memory.get_set_same (a : Nat) (v : Byte) (m : List Host.Cell)
    (h : m.Pairwise fun c d => c.1 < d.1) : Memory.get a (Memory.set a v m) = v := by
  induction m with
  | nil => simpa [Memory.set] using Memory.get_append_cell_same a v [] (by simp)
  | cons c m ih =>
    obtain ⟨hc, hm⟩ := List.pairwise_cons.mp h
    rw [Memory.set]
    split
    · next hab =>
      refine Memory.get_append_cell_same a v (c :: m) fun d hd => ?_
      rcases List.mem_cons.mp hd with rfl | hd
      · exact hab
      · exact Nat.lt_trans hab (hc d hd)
    · split
      · next heq => exact Memory.get_append_cell_same a v m fun d hd => heq ▸ hc d hd
      · next hne => rw [Memory.get, if_neg hne]; exact ih hm

/-- A write leaves every other index alone. -/
theorem Memory.get_set_other {a b : Nat} (v : Byte) (m : List Host.Cell) (h : b ≠ a) :
    Memory.get b (Memory.set a v m) = Memory.get b m := by
  induction m with
  | nil => simpa [Memory.set] using Memory.get_cell_other v [] h
  | cons c m ih =>
    rw [Memory.set]
    split
    · exact Memory.get_cell_other v (c :: m) h
    · split
      · next heq => rw [Memory.get_cell_other v m h, Memory.get, if_neg (heq ▸ h)]
      · rw [Memory.get, Memory.get, ih]

theorem Memory.wf_nil : Memory.wf [] := by simp [Memory.wf]

theorem Memory.mem_set {a : Nat} {v : Byte} {m : List Host.Cell} {c : Host.Cell} (h : c ∈ Memory.set a v m) :
    c ∈ m ∨ (c = (a, v) ∧ v ≠ Memory.unlisted) := by
  have cell : ∀ c : Host.Cell, c ∈ Memory.cell a v → c = (a, v) ∧ v ≠ Memory.unlisted := by
    intro c hc
    unfold Memory.cell at hc
    split at hc
    · simp at hc
    · next hv => exact ⟨by simpa using hc, hv⟩
  induction m with
  | nil => exact .inr (cell c h)
  | cons d m ih =>
    rw [Memory.set] at h
    split at h
    · rcases List.mem_append.mp h with h | h
      · exact .inr (cell c h)
      · exact .inl h
    · split at h
      · rcases List.mem_append.mp h with h | h
        · exact .inr (cell c h)
        · exact .inl (List.mem_cons_of_mem _ h)
      · rcases List.mem_cons.mp h with rfl | h
        · exact .inl (by simp)
        · exact (ih h).imp (List.mem_cons_of_mem _) id

theorem Memory.pairwise_cell_append (a : Nat) (v : Byte) (m : List Host.Cell)
    (hm : m.Pairwise fun c d => c.1 < d.1) (h : ∀ c ∈ m, a < c.1) :
    (Memory.cell a v ++ m).Pairwise fun c d => c.1 < d.1 := by
  unfold Memory.cell
  split
  · exact hm
  · exact List.pairwise_cons.mpr ⟨h, hm⟩

theorem Memory.set_pairwise (a : Nat) (v : Byte) (m : List Host.Cell) (h : m.Pairwise fun c d => c.1 < d.1) :
    (Memory.set a v m).Pairwise fun c d => c.1 < d.1 := by
  induction m with
  | nil => simpa [Memory.set] using Memory.pairwise_cell_append a v [] List.Pairwise.nil (by simp)
  | cons c m ih =>
    obtain ⟨hc, hm⟩ := List.pairwise_cons.mp h
    rw [Memory.set]
    split
    · next hab =>
      refine Memory.pairwise_cell_append a v (c :: m) h fun d hd => ?_
      rcases List.mem_cons.mp hd with rfl | hd
      · exact hab
      · exact Nat.lt_trans hab (hc d hd)
    · split
      · next heq => exact Memory.pairwise_cell_append a v m hm fun d hd => heq ▸ hc d hd
      · next hlt hne =>
        refine List.pairwise_cons.mpr ⟨fun d hd => ?_, ih hm⟩
        rcases Memory.mem_set hd with hd | ⟨rfl, -⟩
        · exact hc d hd
        · exact Nat.lt_of_le_of_ne (Nat.not_lt.mp hlt) fun e => hne e.symm

/-- A write at an index below CAP keeps the canonical form. -/
theorem Memory.set_wf {a : Nat} (v : Byte) {m : List Host.Cell} (h : Memory.wf m) (ha : a < Config.cap) :
    Memory.wf (Memory.set a v m) := by
  refine ⟨Memory.set_pairwise a v m h.1, fun c hc => ?_⟩
  rcases Memory.mem_set hc with hc | ⟨rfl, hv⟩
  · exact h.2 c hc
  · exact ⟨ha, hv⟩

/-- `MemWrite` keeps the buffer canonical. -/
theorem State.memWrite_wf (i : Fin Config.cap) (v : Byte) {s : State} (h : Memory.wf s.buf) :
    Memory.wf (s.memWrite i v).buf :=
  Memory.set_wf v h i.isLt

@[simp] theorem State.memRead_memWrite_same (i : Fin Config.cap) (v : Byte) {s : State} (h : Memory.wf s.buf) :
    (s.memWrite i v).memRead i = v :=
  Memory.get_set_same i.val v s.buf h.1

theorem State.memRead_memWrite_other {i j : Fin Config.cap} (v : Byte) (s : State) (h : j ≠ i) :
    (s.memWrite i v).memRead j = s.memRead j :=
  Memory.get_set_other v s.buf fun e => h (Fin.ext e)

/-- The buffer after reset is canonical. -/
theorem State.reset_buf_wf : Memory.wf State.reset.buf := Memory.wf_nil

end Sys2Proof.Machine
end

