-- ==== Sys2Proof/Laws/Bus.lean ====
section
/-!
SUPPORT. What the bus operations can do, said once each: `setLine`, the sample, and the frames of the driver's
operations (what none of them touches).
-/

namespace Sys2Proof.Machine

open Sys2Proof.Safety

/-! ### Reading a trace that grew -/

@[simp] theorem setsOf_append (xs ys : List BusEvent) : setsOf (xs ++ ys) = setsOf xs ++ setsOf ys := by
  induction xs with
  | nil => rfl
  | cons e xs ih => cases e <;> simp [setsOf, ih]

@[simp] theorem stretchesOf_append (xs ys : List BusEvent) :
    stretchesOf (xs ++ ys) = stretchesOf xs ++ stretchesOf ys := by
  induction xs with
  | nil => rfl
  | cons e xs ih => cases e <;> simp [stretchesOf, ih]

@[simp] theorem shownOf_append (xs ys : List BusEvent) : shownOf (xs ++ ys) = shownOf xs ++ shownOf ys := by
  induction xs with
  | nil => rfl
  | cons e xs ih => cases e <;> simp [shownOf, ih]

@[simp] theorem samplesOf_append (xs ys : List BusEvent) : samplesOf (xs ++ ys) = samplesOf xs ++ samplesOf ys := by
  induction xs with
  | nil => rfl
  | cons e xs ih => cases e <;> simp [samplesOf, ih]

@[simp] theorem delaySum_append (xs ys : List BusEvent) : delaySum (xs ++ ys) = delaySum xs + delaySum ys := by
  induction xs with
  | nil => simp [delaySum]
  | cons e xs ih => cases e <;> simp [delaySum, ih, Nat.add_assoc]

@[simp] theorem waitBound_append (xs ys : List BusEvent) : waitBound (xs ++ ys) = waitBound xs + waitBound ys := by
  induction xs with
  | nil => simp [waitBound]
  | cons e xs ih => cases e <;> simp [waitBound, ih, Nat.add_assoc]

@[simp] theorem eraseStretch_append (xs ys : List BusEvent) :
    eraseStretch (xs ++ ys) = eraseStretch xs ++ eraseStretch ys := by
  induction xs with
  | nil => rfl
  | cons e xs ih => cases e <;> simp [eraseStretch, ih]

/-! ### `setLine` -/

/-- The trace events of one `setLine` call (R100, R105). -/
def Bus.setLineEvents (line : Line) (lvl : Level) (u : Bus) : List BusEvent :=
  [.delay u.delayBefore, .set line lvl] ++
    (match line, lvl with
      | .scl, .high => [.stretch u.nextStretch]
      | _, _ => []) ++
    [.delay u.delayAfter]

theorem Bus.setLine_trace (line : Line) (lvl : Level) (u : Bus) :
    (u.setLine line lvl).trace = u.trace ++ u.setLineEvents line lvl := by
  cases line <;> cases lvl <;>
    simp [Bus.setLine, Bus.setLineEvents, Bus.stretchIfReleasingScl, Bus.stretchWait, Bus.nextStretch]

@[simp] theorem Bus.setLine_setsOf (line : Line) (lvl : Level) (u : Bus) :
    setsOf (u.setLine line lvl).trace = setsOf u.trace ++ [(line, lvl)] := by
  cases line <;> cases lvl <;> simp [Bus.setLine_trace, Bus.setLineEvents, setsOf]

@[simp] theorem Bus.setLine_shownOf (line : Line) (lvl : Level) (u : Bus) :
    shownOf (u.setLine line lvl).trace = shownOf u.trace ++ [.set line lvl] := by
  cases line <;> cases lvl <;> simp [Bus.setLine_trace, Bus.setLineEvents, shownOf]

@[simp] theorem Bus.setLine_samplesOf (line : Line) (lvl : Level) (u : Bus) :
    samplesOf (u.setLine line lvl).trace = samplesOf u.trace := by
  cases line <;> cases lvl <;> simp [Bus.setLine_trace, Bus.setLineEvents, samplesOf]

@[simp] theorem Bus.setLine_sda_sdaOut (lvl : Level) (u : Bus) : (u.setLine .sda lvl).sdaOut = lvl := by
  cases lvl <;> rfl

@[simp] theorem Bus.setLine_sda_sclOut (lvl : Level) (u : Bus) : (u.setLine .sda lvl).sclOut = u.sclOut := by
  cases lvl <;> rfl

@[simp] theorem Bus.setLine_scl_sclOut (lvl : Level) (u : Bus) : (u.setLine .scl lvl).sclOut = lvl := by
  cases lvl <;> simp [Bus.setLine, Bus.stretchIfReleasingScl, Bus.stretchWait]

@[simp] theorem Bus.setLine_scl_sdaOut (lvl : Level) (u : Bus) : (u.setLine .scl lvl).sdaOut = u.sdaOut := by
  cases lvl <;> simp [Bus.setLine, Bus.stretchIfReleasingScl, Bus.stretchWait]

@[simp] theorem Bus.setLine_delayBefore (line : Line) (lvl : Level) (u : Bus) :
    (u.setLine line lvl).delayBefore = u.delayBefore := by
  cases line <;> cases lvl <;> simp [Bus.setLine, Bus.stretchIfReleasingScl, Bus.stretchWait]

@[simp] theorem Bus.setLine_delayAfter (line : Line) (lvl : Level) (u : Bus) :
    (u.setLine line lvl).delayAfter = u.delayAfter := by
  cases line <;> cases lvl <;> simp [Bus.setLine, Bus.stretchIfReleasingScl, Bus.stretchWait]

@[simp] theorem Bus.setLine_busPhase (line : Line) (lvl : Level) (u : Bus) :
    (u.setLine line lvl).busPhase = u.busPhase := by
  cases line <;> cases lvl <;> simp [Bus.setLine, Bus.stretchIfReleasingScl, Bus.stretchWait]

@[simp] theorem Bus.setLine_busAnswers (line : Line) (lvl : Level) (u : Bus) :
    (u.setLine line lvl).busAnswers = u.busAnswers := by
  cases line <;> cases lvl <;> simp [Bus.setLine, Bus.stretchIfReleasingScl, Bus.stretchWait]

@[simp] theorem Bus.setLine_busDrawn (line : Line) (lvl : Level) (u : Bus) :
    (u.setLine line lvl).busDrawn = u.busDrawn := by
  cases line <;> cases lvl <;> simp [Bus.setLine, Bus.stretchIfReleasingScl, Bus.stretchWait]

@[simp] theorem Bus.setLine_nextSda (line : Line) (lvl : Level) (u : Bus) :
    (u.setLine line lvl).nextSda = u.nextSda := by
  simp [Bus.nextSda]

/-- The CLOCK agent after a stretch wait depends on that agent alone. -/
theorem Bus.dropStretch_clock {u v : Bus} (ha : u.clockAnswers = v.clockAnswers) (hd : u.clockDrawn = v.clockDrawn) :
    u.dropStretch.clockAnswers = v.dropStretch.clockAnswers ∧ u.dropStretch.clockDrawn = v.dropStretch.clockDrawn := by
  unfold Bus.dropStretch
  rw [ha]
  split <;> simp_all

@[simp] theorem Bus.setLine_sda_clockAnswers (lvl : Level) (u : Bus) :
    (u.setLine .sda lvl).clockAnswers = u.clockAnswers := rfl

@[simp] theorem Bus.setLine_sda_clockDrawn (lvl : Level) (u : Bus) :
    (u.setLine .sda lvl).clockDrawn = u.clockDrawn := rfl

@[simp] theorem Bus.setLine_scl_low_clockAnswers (u : Bus) : (u.setLine .scl .low).clockAnswers = u.clockAnswers := rfl

@[simp] theorem Bus.setLine_scl_low_clockDrawn (u : Bus) : (u.setLine .scl .low).clockDrawn = u.clockDrawn := rfl

@[simp] theorem Bus.setLine_scl_high_clockAnswers (u : Bus) :
    (u.setLine .scl .high).clockAnswers = u.dropStretch.clockAnswers :=
  (Bus.dropStretch_clock (u := ((u.wait u.delayBefore).setOut .scl .high).emit (.set .scl .high)) (v := u) rfl rfl).1

@[simp] theorem Bus.setLine_scl_high_clockDrawn (u : Bus) :
    (u.setLine .scl .high).clockDrawn = u.dropStretch.clockDrawn :=
  (Bus.dropStretch_clock (u := ((u.wait u.delayBefore).setOut .scl .high).emit (.set .scl .high)) (v := u) rfl rfl).2

/-! ### `sampleSda` -/

/-- A sample with SDA released is the BUS agent's answer, and only the trace and that agent change (R46). -/
theorem Bus.sampleSda_released {u : Bus} (h : u.sdaOut = .high) :
    u.sampleSda = (u.nextSda, u.dropSda.emit (.sampleSda u.nextSda)) := by
  simp [Bus.sampleSda, h, Level.wiredAnd]

@[simp] theorem Bus.sampleSda_sdaOut (u : Bus) : u.sampleSda.2.sdaOut = u.sdaOut := by
  unfold Bus.sampleSda; split <;> simp_all

@[simp] theorem Bus.sampleSda_sclOut (u : Bus) : u.sampleSda.2.sclOut = u.sclOut := by
  unfold Bus.sampleSda; split <;> simp_all

@[simp] theorem Bus.sampleSda_delayBefore (u : Bus) : u.sampleSda.2.delayBefore = u.delayBefore := by
  unfold Bus.sampleSda; split <;> simp_all

@[simp] theorem Bus.sampleSda_delayAfter (u : Bus) : u.sampleSda.2.delayAfter = u.delayAfter := by
  unfold Bus.sampleSda; split <;> simp_all

@[simp] theorem Bus.sampleSda_busPhase (u : Bus) : u.sampleSda.2.busPhase = u.busPhase := by
  unfold Bus.sampleSda; split <;> simp_all

@[simp] theorem Bus.sampleSda_clockAnswers (u : Bus) : u.sampleSda.2.clockAnswers = u.clockAnswers := by
  unfold Bus.sampleSda; split <;> simp_all

@[simp] theorem Bus.sampleSda_clockDrawn (u : Bus) : u.sampleSda.2.clockDrawn = u.clockDrawn := by
  unfold Bus.sampleSda; split <;> simp_all

@[simp] theorem Bus.sampleSda_stretchesOf (u : Bus) : stretchesOf u.sampleSda.2.trace = stretchesOf u.trace := by
  unfold Bus.sampleSda; split <;> simp [stretchesOf]

@[simp] theorem Bus.sampleSda_setsOf (u : Bus) : setsOf u.sampleSda.2.trace = setsOf u.trace := by
  unfold Bus.sampleSda; split <;> simp [setsOf]

/-! ### Driver operations: the delay pair is never written -/

@[simp] theorem Bus.start_delayBefore (u : Bus) : u.start.delayBefore = u.delayBefore := by simp [Bus.start]

@[simp] theorem Bus.start_delayAfter (u : Bus) : u.start.delayAfter = u.delayAfter := by simp [Bus.start]

@[simp] theorem Bus.repeatedStart_delayBefore (u : Bus) : u.repeatedStart.delayBefore = u.delayBefore := by
  simp [Bus.repeatedStart]

@[simp] theorem Bus.repeatedStart_delayAfter (u : Bus) : u.repeatedStart.delayAfter = u.delayAfter := by
  simp [Bus.repeatedStart]

@[simp] theorem Bus.stop_delayBefore (u : Bus) : u.stop.delayBefore = u.delayBefore := by simp [Bus.stop]

@[simp] theorem Bus.stop_delayAfter (u : Bus) : u.stop.delayAfter = u.delayAfter := by simp [Bus.stop]

@[simp] theorem Bus.writeBits_delayBefore (b : Byte) (n : Nat) (u : Bus) :
    (Bus.writeBits b n u).delayBefore = u.delayBefore := by
  induction n generalizing u with
  | zero => rfl
  | succ n ih => rw [Bus.writeBits, ih]; simp [Bus.clockPulse]

@[simp] theorem Bus.writeBits_delayAfter (b : Byte) (n : Nat) (u : Bus) :
    (Bus.writeBits b n u).delayAfter = u.delayAfter := by
  induction n generalizing u with
  | zero => rfl
  | succ n ih => rw [Bus.writeBits, ih]; simp [Bus.clockPulse]

@[simp] theorem Bus.write_delayBefore (b : Byte) (u : Bus) : (u.write b).2.delayBefore = u.delayBefore := by
  simp [Bus.write]

@[simp] theorem Bus.write_delayAfter (b : Byte) (u : Bus) : (u.write b).2.delayAfter = u.delayAfter := by
  simp [Bus.write]

@[simp] theorem Bus.readBits_delayBefore (n : Nat) (v : Byte) (u : Bus) :
    (Bus.readBits n v u).2.delayBefore = u.delayBefore := by
  induction n generalizing v u with
  | zero => rfl
  | succ n ih => rw [Bus.readBits, ih]; simp

@[simp] theorem Bus.readBits_delayAfter (n : Nat) (v : Byte) (u : Bus) :
    (Bus.readBits n v u).2.delayAfter = u.delayAfter := by
  induction n generalizing v u with
  | zero => rfl
  | succ n ih => rw [Bus.readBits, ih]; simp

@[simp] theorem Bus.read_delayBefore (l : Bool) (u : Bus) : (u.read l).2.delayBefore = u.delayBefore := by
  simp [Bus.read, Bus.clockPulse]

@[simp] theorem Bus.read_delayAfter (l : Bool) (u : Bus) : (u.read l).2.delayAfter = u.delayAfter := by
  simp [Bus.read, Bus.clockPulse]

end Sys2Proof.Machine
end

