-- ==== Sys2Proof/Laws/Step.lean ====
section
/-!
SUPPORT. What a step can do: wait, or handle the next input; and the loops of the bridge over their fields that no
other rule reads.
-/

namespace Sys2Proof.Machine

/-- With nothing to deliver the machine waits. -/
theorem step_of_nil {s : State} (h : s.inputs = []) : step s = .next s := by
  simp [step, h, waitForHost]

/-- Otherwise it handles the next input, which it has taken. -/
theorem step_of_cons {s : State} {e : Input} {rest : List Input} (h : s.inputs = e :: rest) :
    step s = handleInput e { s with inputs := rest } := by
  simp [step, h]

/-- A step from `deliver e s` handles `e` at `s`. -/
@[simp] theorem step_deliver (e : Input) (s : State) : step (deliver e s) = handleInput e s := rfl

/-- Every step does one of two things. -/
theorem step_cases {s t : State} (h : step s = .next t) :
    (s.inputs = [] ∧ t = s) ∨
      ∃ e rest, s.inputs = e :: rest ∧ handleInput e { s with inputs := rest } = .next t := by
  cases hi : s.inputs with
  | nil => rw [step_of_nil hi] at h; exact .inl ⟨rfl, by injection h with h; exact h.symm⟩
  | cons e rest => exact .inr ⟨e, rest, rfl, by rw [← step_of_cons hi]; exact h⟩

/-! ### Frames of the bridge's loops -/

theorem readOver_frame (ks : List (Fin Config.cap)) (s : State) :
    (readOver ks s).status = s.status ∧ (readOver ks s).phase = s.phase ∧ (readOver ks s).pend = s.pend ∧
      (readOver ks s).responses = s.responses ∧ (readOver ks s).inputs = s.inputs := by
  induction ks generalizing s with
  | nil => simp [readOver]
  | cons k ks ih => exact ih _

theorem storeOver_frame (ks : List (Fin Config.cap)) (bs : List Byte) (s : State) :
    (storeOver ks bs s).bus = s.bus ∧ (storeOver ks bs s).status = s.status ∧ (storeOver ks bs s).phase = s.phase ∧
      (storeOver ks bs s).pend = s.pend ∧ (storeOver ks bs s).responses = s.responses ∧
      (storeOver ks bs s).inputs = s.inputs := by
  induction ks generalizing bs s with
  | nil => simp [storeOver]
  | cons k ks ih =>
    cases bs with
    | nil => simp [storeOver]
    | cons b bs => exact ih bs _

theorem writeOver_frame (ks : List (Fin Config.cap)) (s : State) :
    (writeOver ks s).2.status = s.status ∧ (writeOver ks s).2.phase = s.phase ∧ (writeOver ks s).2.buf = s.buf ∧
      (writeOver ks s).2.responses = s.responses ∧ (writeOver ks s).2.inputs = s.inputs := by
  induction ks generalizing s with
  | nil => exact ⟨rfl, rfl, rfl, rfl, rfl⟩
  | cons k ks ih =>
    rw [writeOver]
    split
    · exact ih _
    · exact ⟨rfl, rfl, rfl, rfl, rfl⟩

theorem stopIfEnd_frame (s : State) :
    (stopIfEnd s).status = s.status ∧ (stopIfEnd s).phase = s.phase ∧ (stopIfEnd s).pend = s.pend ∧
      (stopIfEnd s).buf = s.buf ∧ (stopIfEnd s).responses = s.responses ∧ (stopIfEnd s).inputs = s.inputs := by
  unfold stopIfEnd; split <;> simp

/-- The read loop keeps the buffer canonical. -/
theorem readOver_wf (ks : List (Fin Config.cap)) {s : State} (h : Memory.wf s.buf) :
    Memory.wf (readOver ks s).buf := by
  induction ks generalizing s with
  | nil => exact h
  | cons k ks ih => exact ih (Memory.set_wf _ h k.isLt)

/-- The copy loop keeps the buffer canonical. -/
theorem storeOver_wf (ks : List (Fin Config.cap)) (bs : List Byte) {s : State} (h : Memory.wf s.buf) :
    Memory.wf (storeOver ks bs s).buf := by
  induction ks generalizing bs s with
  | nil => simpa [storeOver] using h
  | cons k ks ih =>
    cases bs with
    | nil => simpa [storeOver] using h
    | cons b bs => exact ih bs (Memory.set_wf _ h k.isLt)

end Sys2Proof.Machine
end

