-- ==== Sys2Proof/Laws/Loops.lean ====
section
/-!
SUPPORT. The loops of the bridge over the staging buffer, by their first index and their count, and the agents'
answers taken in two goes: what a proof about a chunk goes by induction on.
-/

namespace Sys2Proof.Machine

open Sys2Proof.Safety

/-! ### The indexes of a chunk -/

/-- The `n` buffer indexes from `k` on. -/
def indexesFrom (k n : Nat) : List (Fin Config.cap) :=
  (List.range' k n).filterMap fun k => if h : k < Config.cap then some ⟨k, h⟩ else none

theorem indexes_eq_indexesFrom (n : Nat) : indexes n = indexesFrom 0 n := by
  simp [indexes, indexesFrom, List.range_eq_range']

@[simp] theorem indexesFrom_zero (k : Nat) : indexesFrom k 0 = [] := rfl

theorem indexesFrom_succ {k : Nat} (n : Nat) (h : k < Config.cap) :
    indexesFrom k (n + 1) = ⟨k, h⟩ :: indexesFrom (k + 1) n := by
  simp [indexesFrom, List.range'_succ, h]

/-- The indexes are the numbers from `k` on. -/
theorem indexesFrom_val {k n : Nat} (h : k + n ≤ Config.cap) :
    (indexesFrom k n).map (fun j => j.val) = List.range' k n := by
  induction n generalizing k with
  | zero => rfl
  | succ n ih => rw [indexesFrom_succ n (by omega), List.map_cons, List.range'_succ, ih (by omega)]

theorem indexes_length {n : Nat} (h : n ≤ Config.cap) : (indexes n).length = n := by
  have := congrArg List.length (indexesFrom_val (k := 0) (n := n) (by omega))
  simpa [indexes_eq_indexesFrom] using this

/-! ### The agents' answers -/

@[simp] theorem nextAnswers_length (n : Nat) (u : Bus) : (nextAnswers n u).length = n := by
  induction n generalizing u with
  | zero => rfl
  | succ n ih => simp [nextAnswers, ih]

theorem nextAnswers_add (a b : Nat) (u : Bus) :
    nextAnswers (a + b) u = nextAnswers a u ++ nextAnswers b (dropAnswers a u) := by
  induction a generalizing u with
  | zero => simp [nextAnswers, dropAnswers]
  | succ a ih => rw [show a + 1 + b = (a + b) + 1 by omega]; simp [nextAnswers, dropAnswers, ih]

theorem dropAnswers_add (a b : Nat) (u : Bus) : dropAnswers (a + b) u = dropAnswers b (dropAnswers a u) := by
  induction a generalizing u with
  | zero => simp [dropAnswers]
  | succ a ih => rw [show a + 1 + b = (a + b) + 1 by omega]; simp [dropAnswers, ih]

theorem nextStretches_add (a b : Nat) (u : Bus) :
    nextStretches (a + b) u = nextStretches a u ++ nextStretches b (dropStretches a u) := by
  induction a generalizing u with
  | zero => simp [nextStretches, dropStretches]
  | succ a ih => rw [show a + 1 + b = (a + b) + 1 by omega]; simp [nextStretches, dropStretches, ih]

theorem dropStretches_add (a b : Nat) (u : Bus) : dropStretches (a + b) u = dropStretches b (dropStretches a u) := by
  induction a generalizing u with
  | zero => simp [dropStretches]
  | succ a ih => rw [show a + 1 + b = (a + b) + 1 by omega]; simp [dropStretches, ih]

theorem nextBytes_succ (n : Nat) (u : Bus) :
    nextBytes (n + 1) u = byteOfLevels (nextAnswers 8 u) :: nextBytes n (dropAnswers 8 u) := by
  have h := nextAnswers_length 8 u
  rw [nextBytes, show 8 * (n + 1) = 8 + 8 * n by omega, nextAnswers_add, bytesOfLevels, List.take_left' h,
    List.drop_left' h, nextBytes]

@[simp] theorem nextBytes_length (n : Nat) (u : Bus) : (nextBytes n u).length = n := by
  induction n generalizing u with
  | zero => rfl
  | succ n ih => simp [nextBytes_succ, ih]

/-! ### The copy loop and the write loop -/

/-- The copy loop of R182 stores byte `j` of the payload at index `k + j`, and nothing else. -/
theorem storeOver_memRead (n k : Nat) (bs : List Byte) {s : State} (hk : k + n ≤ Config.cap) (hn : n ≤ bs.length)
    (hw : Memory.wf s.buf) (j : Fin Config.cap) :
    (k ≤ j.val → j.val < k + n → bs[j.val - k]? = some ((storeOver (indexesFrom k n) bs s).memRead j)) ∧
      (j.val < k ∨ k + n ≤ j.val → (storeOver (indexesFrom k n) bs s).memRead j = s.memRead j) := by
  induction n generalizing k s bs with
  | zero => simp [storeOver]; omega
  | succ n ih =>
    have hkc : k < Config.cap := by omega
    cases bs with
    | nil => simp at hn
    | cons b bs =>
      rw [indexesFrom_succ n hkc, storeOver]
      have H := ih (k + 1) bs (s := State.memWrite ⟨k, hkc⟩ b s) (by omega) (by simpa using hn)
        (Memory.set_wf b hw hkc)
      refine ⟨fun h1 h2 => ?_, fun h => ?_⟩
      · rcases Nat.lt_or_eq_of_le h1 with h | h
        · rw [← H.1 (by omega) (by omega), show j.val - k = (j.val - (k + 1)) + 1 by omega, List.getElem?_cons_succ]
        · obtain rfl : j = ⟨k, hkc⟩ := Fin.ext h.symm
          rw [H.2 (.inl (by simp)), State.memRead_memWrite_same _ _ hw]
          simp
      · rw [H.2 (by omega)]
        exact State.memRead_memWrite_other _ _ fun e => by subst e; simp at h

/-- The write loop of R183 counts in `pend.done` as many bytes as it wrote. -/
theorem writeOver_pend (ks : List (Fin Config.cap)) (s : State) :
    ∃ j ≤ ks.length,
      (writeOver ks s).2.pend = { s.pend with done := s.pend.done + BitVec.ofNat 16 j } := by
  induction ks generalizing s with
  | nil => exact ⟨0, by simp, by simp [writeOver]⟩
  | cons k ks ih =>
    rw [writeOver]
    dsimp only
    split
    · obtain ⟨j, hj, h⟩ := ih (writeByte k s).2
      have hd : 1#16 + BitVec.ofNat 16 j = BitVec.ofNat 16 (j + 1) := by
        apply BitVec.eq_of_toNat_eq
        simp
        omega
      exact ⟨j + 1, by simpa using hj, by rw [h, ← hd]; simp only [writeByte, BitVec.add_assoc]⟩
    · exact ⟨1, by simp, rfl⟩

end Sys2Proof.Machine
end

