-- ==== Sys2Proof/Laws/PerInstr.lean ====
section
/-!
SUPPORT. A fact about every instruction as syntax: its packet is 8 bytes whose byte 1 is its selector, one of the
eight defined ones (30_encoding.md R70, R72).
-/

namespace Sys2Proof.Laws

/-- The packet's length, its selector byte, and the selector's range. -/
def PacketForm.Statement (i : Instr) : Prop :=
  (encode i).length = 8 ∧ (encode i)[1]? = some i.sel ∧ i.sel.toNat ≤ 7

theorem PacketForm.echo (f : SetupFields) : PacketForm.Statement (.echo f) :=
  ⟨rfl, rfl, Nat.le_of_ble_eq_true rfl⟩

theorem PacketForm.getCapabilities (f : SetupFields) : PacketForm.Statement (.getCapabilities f) :=
  ⟨rfl, rfl, Nat.le_of_ble_eq_true rfl⟩

theorem PacketForm.setClockPeriod (f : SetupFields) : PacketForm.Statement (.setClockPeriod f) :=
  ⟨rfl, rfl, Nat.le_of_ble_eq_true rfl⟩

theorem PacketForm.getStatus (f : SetupFields) : PacketForm.Statement (.getStatus f) :=
  ⟨rfl, rfl, Nat.le_of_ble_eq_true rfl⟩

theorem PacketForm.i2cIo (f : SetupFields) : PacketForm.Statement (.i2cIo f) :=
  ⟨rfl, rfl, Nat.le_of_ble_eq_true rfl⟩

theorem PacketForm.i2cIoBegin (f : SetupFields) : PacketForm.Statement (.i2cIoBegin f) :=
  ⟨rfl, rfl, Nat.le_of_ble_eq_true rfl⟩

theorem PacketForm.i2cIoEnd (f : SetupFields) : PacketForm.Statement (.i2cIoEnd f) :=
  ⟨rfl, rfl, Nat.le_of_ble_eq_true rfl⟩

theorem PacketForm.i2cIoBeginEnd (f : SetupFields) : PacketForm.Statement (.i2cIoBeginEnd f) :=
  ⟨rfl, rfl, Nat.le_of_ble_eq_true rfl⟩

end Sys2Proof.Laws
end

