-- ==== Sys2Proof/Tests/Slice0.lean ====
section
/-!
SUPPORT. The model's own tests: the vectors of 95_test_vectors.md (each test names its vector), one step on a small
state each, and for every statement with hypotheses a state and operands that meet them all.
-/

namespace Sys2Proof.Tests

open Sys2Proof.Machine Sys2Proof.Safety

/-! ### Small states -/

/-- The reset state with the agents' next answers and the host's next events given. -/
def given (ds : List Level) (ins : List Input) : State :=
  { State.reset with bus := { Bus.reset with busAnswers := ds }, inputs := ins }

/-- The held bus (R193) with the BUS agent's next answers given. -/
def heldBus (ds : List Level) : Bus :=
  { Bus.reset with sclOut := .low, busPhase := .busActive, busAnswers := ds }

/-- A transfer of `len` bytes to 0x50, `done` of them moved, on the held bus, in `phase`. -/
def pending (ph : Phase) (dir : Direction) (endBit : Bool) (len done : Half) (ds : List Level) (ins : List Input) :
    State :=
  { State.reset with
    bus := heldBus ds
    status := 1#8
    phase := ph
    pend := { beginBit := true, endBit := endBit, dir := dir, addr := 0x50#7, len := len, done := done }
    inputs := ins }

/-- Where a step leads (every step of this machine is a next state). -/
def after (s : State) : State :=
  match step s with
  | .next t => t
  | .fault _ => s
  | .refused _ => s

/-- The setup of an assembler line as an input. -/
def line (l : AsmLine) : Input := .host (.setup l.request)

/-- A request with these selector, value, index and length. -/
def req (sel : Byte) (value index length : Half) : Input := .host (.setup ⟨0xC1#8, sel, value, index, length⟩)

/-- `SDA↓`. -/
def dDn : BusEvent := .set .sda .low
/-- `SDA↑`. -/
def dUp : BusEvent := .set .sda .high
/-- `SCL↓`. -/
def cDn : BusEvent := .set .scl .low
/-- `SCL↑`. -/
def cUp : BusEvent := .set .scl .high

/-! ### Well-formedness: each check refuses a term -/

/-- R71: `IO.B.E W 0x50, 2` as a conforming host sends it. -/
theorem test_wf_accepts : (Instr.i2cIoBeginEnd ⟨0x41#8, 0#16, 0x50#16, 2#16⟩).wf = true := by decide

/-- H5: a standard request is not a vendor request. -/
theorem test_wf_refuses_standard_request : (Instr.echo ⟨0x81#8, 0#16, 0#16, 2#16⟩).wf = false := by decide

/-- H5: a vendor request to the device. -/
theorem test_wf_refuses_device_recipient : (Instr.echo ⟨0xC0#8, 0#16, 0#16, 2#16⟩).wf = false := by decide

/-- H4: an IN transfer with the direction flag of a write. -/
theorem test_wf_refuses_wrong_direction : (Instr.i2cIoEnd ⟨0xC1#8, 0#16, 0x50#16, 2#16⟩).wf = false := by decide

/-! ### Decoding: packets written out from the spec -/

/-- E1. -/
theorem test_decode_echo :
    decode [0xC1#8, 0x00#8, 0x34#8, 0x12#8, 0x00#8, 0x00#8, 0x02#8, 0x00#8] =
      .ok (.echo ⟨0xC1#8, 0x1234#16, 0#16, 2#16⟩) := rfl

/-- Q5 as a packet (R70). -/
theorem test_decode_get_capabilities :
    decode [0xC1#8, 0x01#8, 0x00#8, 0x00#8, 0x00#8, 0x00#8, 0x04#8, 0x00#8] =
      .ok (.getCapabilities ⟨0xC1#8, 0#16, 0#16, 4#16⟩) := rfl

/-- Q8 as a packet (R70, R71). -/
theorem test_decode_set_clock_period :
    decode [0x41#8, 0x02#8, 0x0A#8, 0x00#8, 0x00#8, 0x00#8, 0x00#8, 0x00#8] =
      .ok (.setClockPeriod ⟨0x41#8, 10#16, 0#16, 0#16⟩) := rfl

/-- P1, request 3. -/
theorem test_decode_get_status :
    decode [0xC1#8, 0x03#8, 0x00#8, 0x00#8, 0x00#8, 0x00#8, 0x01#8, 0x00#8] =
      .ok (.getStatus ⟨0xC1#8, 0#16, 0#16, 1#16⟩) := rfl

/-- E4: length is little-endian. -/
theorem test_decode_i2c_io :
    decode [0xC1#8, 0x04#8, 0x01#8, 0x00#8, 0x50#8, 0x00#8, 0x00#8, 0x01#8] =
      .ok (.i2cIo ⟨0xC1#8, 1#16, 0x50#16, 256#16⟩) := rfl

/-- P3, request 1. -/
theorem test_decode_i2c_io_begin :
    decode [0x41#8, 0x05#8, 0x00#8, 0x00#8, 0x50#8, 0x00#8, 0x01#8, 0x00#8] =
      .ok (.i2cIoBegin ⟨0x41#8, 0#16, 0x50#16, 1#16⟩) := rfl

/-- E3. -/
theorem test_decode_i2c_io_end :
    decode [0xC1#8, 0x06#8, 0x01#8, 0x00#8, 0x50#8, 0x00#8, 0x02#8, 0x00#8] =
      .ok (.i2cIoEnd ⟨0xC1#8, 1#16, 0x50#16, 2#16⟩) := rfl

/-- E6: every bit of value and index is carried. -/
theorem test_decode_i2c_io_begin_end :
    decode [0x41#8, 0x07#8, 0xFE#8, 0xFF#8, 0xD0#8, 0x00#8, 0x00#8, 0x00#8] =
      .ok (.i2cIoBeginEnd ⟨0x41#8, 0xFFFE#16, 0xD0#16, 0#16⟩) := rfl

/-- E9: io bit and bit 3 set is unsupported, not I2C_IO. -/
theorem test_decode_refuses_twelve :
    decode [0xC1#8, 0x0C#8, 0x00#8, 0x00#8, 0x00#8, 0x00#8, 0x00#8, 0x00#8] = .error (.unsupportedRequest 12#8) := rfl

/-- R70: a setup packet has 8 bytes. -/
theorem test_decode_refuses_short_packet : decode [0xC1#8, 0x00#8] = .error (.wrongLength 2) := rfl

/-- The opcode table's words 0 to 7 are the eight rows. -/
theorem test_table_words :
    ((List.range 8).map fun k => (decodeTableWord 8 k).map Instr.sel) =
      [some 0#8, some 1#8, some 2#8, some 3#8, some 4#8, some 5#8, some 6#8, some 7#8] ∧
      decodeTableWord 8 8 = none := by decide

/-- Each row's word is the very next instruction of the reset state (log 11). -/
theorem test_with_fetch_word :
    (∃ t, step (State.reset.withFetchWord 8 0) = .next t) ∧ (∃ t, step (State.reset.withFetchWord 8 1) = .next t) ∧
      (∃ t, step (State.reset.withFetchWord 8 2) = .next t) ∧ (∃ t, step (State.reset.withFetchWord 8 3) = .next t) ∧
      (∃ t, step (State.reset.withFetchWord 8 4) = .next t) ∧ (∃ t, step (State.reset.withFetchWord 8 5) = .next t) ∧
      (∃ t, step (State.reset.withFetchWord 8 6) = .next t) ∧ ∃ t, step (State.reset.withFetchWord 8 7) = .next t :=
  ⟨⟨_, rfl⟩, ⟨_, rfl⟩, ⟨_, rfl⟩, ⟨_, rfl⟩, ⟨_, rfl⟩, ⟨_, rfl⟩, ⟨_, rfl⟩, ⟨_, rfl⟩⟩

/-- The same word read as a request: ECHO of value 0, length 0 replies nothing (Q4). -/
theorem test_with_fetch_word_runs_echo :
    (after (State.reset.withFetchWord 8 0)).responses = [.reply []] := by decide

/-! ### Operands and the parameters -/

/-- E5, E6, E7. -/
theorem test_address_bytes :
    addressByte 0x50#7 .write = 0xA0#8 ∧ addressByte 0x50#7 .read = 0xA1#8 ∧
      addressByte (addrOperand ⟨0x41#8, 0xFFFE#16, 0xD0#16, 0#16⟩) (dirOperand ⟨0x41#8, 0xFFFE#16, 0xD0#16, 0#16⟩) =
        0xA0#8 ∧
      addressByte (addrOperand ⟨0xC1#8, 3#16, 0x7F#16, 0#16⟩) (dirOperand ⟨0xC1#8, 3#16, 0x7F#16, 0#16⟩) = 0xFF#8 := by
  decide

/-- R85, P1 request 1 and P3 request 3: the assembler's packets. -/
theorem test_assembler_packets :
    requestPacket (AsmLine.io true true .write 0x50#16 2#16 [0x00#8, 0x20#8]).request =
        [0x41#8, 0x07#8, 0x00#8, 0x00#8, 0x50#8, 0x00#8, 0x02#8, 0x00#8] ∧
      requestPacket (AsmLine.io false true .read 0x50#16 2#16 []).request =
        [0xC1#8, 0x06#8, 0x01#8, 0x00#8, 0x50#8, 0x00#8, 0x02#8, 0x00#8] := by decide

/-- T1, the rows where the two roundings differ, and the bands' edges. -/
theorem test_delay_pairs :
    ([0, 2, 3, 4, 5, 7, 9, 10, 13, 15, 19, 20].map (delayPair .down)) =
        [(0, 1), (0, 1), (1, 1), (1, 1), (1, 2), (2, 2), (2, 3), (1, 4), (3, 4), (3, 5), (4, 6), (3, 7)] ∧
      ([0, 2, 3, 4, 5, 7, 9, 10, 13, 15, 19, 20].map (delayPair .up)) =
        [(0, 1), (0, 1), (1, 1), (1, 1), (1, 2), (1, 3), (1, 4), (1, 4), (2, 5), (2, 6), (3, 7), (3, 7)] := by decide

/-! ### The bus driver -/

/-- T2: releasing SDA waits for nothing but the two delays. -/
theorem test_setline_sda : (Bus.reset.setLine .sda .high).trace = [.delay 0, dUp, .delay 1] := by decide +kernel

/-- T2: releasing SCL, draw Timeout: no error, and the line is released. -/
theorem test_setline_scl_timeout :
    let u := { Bus.reset with sclOut := .low, clockAnswers := [.timeout] }.setLine .scl .high
    u.trace = [.delay 0, cUp, .stretch .timeout, .delay 1] ∧ u.sclOut = .high := by decide +kernel

/-- R46: no answer is asked for while the block drives SDA. -/
theorem test_sample_driven_sda :
    let u : Bus := { Bus.reset with sdaOut := .low, busAnswers := [.high] }
    u.sampleSda = (.low, u) := by decide +kernel

/-- D2: `start()` on a held bus. -/
theorem test_start_held : shownOf (heldBus []).start.trace = [dDn, cDn] := by decide +kernel

/-- D3. -/
theorem test_repeated_start : shownOf (heldBus []).repeatedStart.trace = [dUp, cUp, dDn, cDn] := by decide +kernel

/-- D6. -/
theorem test_stop : shownOf (heldBus []).stop.trace = [dDn, cUp, dUp] := by decide +kernel

/-- D7. -/
theorem test_write_a0 :
    let w := (heldBus [.low]).write 0xA0#8
    w.1 = true ∧ shownOf w.2.trace =
      [dUp, cUp, cDn, dDn, cUp, cDn, dUp, cUp, cDn, dDn, cUp, cDn, dDn, cUp, cDn, dDn, cUp, cDn, dDn, cUp, cDn,
        dDn, cUp, cDn, dUp, cUp, .sampleSda .low, cDn] := by decide +kernel

/-- T3: a timeout at the ack clock changes no outcome, and each release of SCL takes the next CLOCK outcome. -/
theorem test_stretch_timeout_at_ack :
    let os := List.replicate 8 Stretch.released ++ [Stretch.timeout]
    let w := { heldBus [.low] with clockAnswers := os ++ [Stretch.released] }.write 0xA0#8
    w.1 = true ∧ stretchesOf w.2.trace = os ∧ w.2.clockAnswers = [Stretch.released] := by decide +kernel

/-- D8: the same byte, not acknowledged. -/
theorem test_write_nack : ((heldBus [.high]).write 0xA0#8).1 = false := by decide +kernel

/-- D9. -/
theorem test_read_a1 :
    let r := (heldBus [.high, .low, .high, .low, .low, .low, .low, .high]).read false
    r.1 = 0xA1#8 ∧ shownOf r.2.trace =
      [dUp, cDn, cUp, .sampleSda .high, cDn, cUp, .sampleSda .low, cDn, cUp, .sampleSda .high, cDn,
        cUp, .sampleSda .low, cDn, cUp, .sampleSda .low, cDn, cUp, .sampleSda .low, cDn, cUp, .sampleSda .low, cDn,
        cUp, .sampleSda .high, cDn, dDn, cUp, cDn, dUp] := by decide +kernel

/-- D10: the acknowledge bit of the last byte is SDA released. -/
theorem test_read_last :
    let r := (heldBus [.high, .low, .high, .low, .low, .low, .low, .high]).read true
    r.1 = 0xA1#8 ∧ (setsOf r.2.trace)[18]? = some (.sda, .high) ∧ r.2.sdaOut = .high ∧ r.2.sclOut = .low := by decide +kernel

/-! ### The stateless requests -/

/-- Q1, Q2, Q4. -/
theorem test_echo :
    (after (given [] [req 0#8 0x1234#16 0#16 2#16])).responses = [.reply [0x34#8, 0x12#8]] ∧
      (after (given [] [req 0#8 0x1234#16 0#16 1#16])).responses = [.reply [0x34#8]] ∧
      (after (given [] [req 0#8 0x1234#16 0#16 0#16])).responses = [.reply []] := by decide +kernel

/-- Q6, Q7. -/
theorem test_get_capabilities :
    (after (given [] [req 1#8 0#16 0#16 2#16])).responses = [.reply [0x19#8, 0x00#8]] ∧
      (after (given [] [req 1#8 0#16 0#16 64#16])).responses = [.reply [0x19#8, 0x00#8, 0xFF#8, 0x0E#8]] := by decide +kernel

/-- R155: the capability word is the OR of the bits it advertises (0, 3, 4, 16 to 23, 25 to 27). -/
theorem test_capability_word :
    (List.range 32).filter (fun k => Config.capabilityWord.getLsbD k) =
      [0, 3, 4, 16, 17, 18, 19, 20, 21, 22, 23, 25, 26, 27] := by decide +kernel

/-- Q8. -/
theorem test_set_clock_period :
    after (given [] [req 2#8 10#16 0#16 0#16]) = { State.reset with responses := [.accept] } := by decide +kernel

/-- Q15: a status read leaves a pending write pending. -/
theorem test_get_status_while_pending :
    let t := after (pending .outWait .write true 2#16 0#16 [] [req 3#8 0#16 0#16 1#16])
    t.responses = [.reply [0x01#8]] ∧ t.phase = .outWait ∧ t.bus = heldBus [] := by decide +kernel

/-- Q13. -/
theorem test_unsupported :
    after (given [] [req 0x0C#8 0#16 0#16 0#16]) =
      { State.reset with responses := [.stall .unsupportedRequest] } := by decide +kernel

/-! ### The I2C_IO requests -/

/-- B1: the probe; 32 `Set` events. -/
theorem test_probe_ack :
    let t := after (given [.low] [line (.io true true .write 0x50#16 0#16 [])])
    t.responses = [.accept] ∧ t.status = 1#8 ∧ t.bus.sclOut = .high ∧ (setsOf t.bus.trace).length = 32 := by decide +kernel

/-- B3: the probe of an absent device. -/
theorem test_probe_nack :
    let t := after (given [.high] [line (.io true true .write 0x48#16 0#16 [])])
    t.responses = [.stall .addressNack] ∧ t.status = 2#8 ∧ t.phase = .idle ∧ t.bus.busPhase = .busIdle := by decide +kernel

/-- B2, first request: I2C_IO_BEGIN of length 0 leaves the bus held. -/
theorem test_begin_holds_bus :
    let t := after (given [.low] [line (.io true false .write 0x50#16 0#16 [])])
    t.responses = [.accept] ∧ t.bus.sclOut = .low ∧ t.bus.sdaOut = .high ∧ t.bus.busPhase = .busActive := by decide +kernel

/-- P3, request 3: I2C_IO_END of two read bytes after a repeated START; 78 `Set` events. -/
theorem test_end_reads_two :
    let t := after (pending .idle .write false 1#16 1#16
      [.low, .low, .low, .low, .high, .low, .low, .high, .low, .low, .low, .high, .high, .low, .high, .low, .low]
      [line (.io false true .read 0x50#16 2#16 [])])
    t.responses = [.reply [0x12#8, 0x34#8]] ∧ (setsOf t.bus.trace).length = 78 ∧ t.bus.busPhase = .busIdle := by
  decide +kernel

/-- R195, R181: I2C_IO continues with a repeated START; a write of 200 bytes asks for the first 64. -/
theorem test_io_expects :
    let t := after (pending .idle .write false 1#16 1#16 [.low] [line (.io false false .write 0x50#16 200#16 [])])
    t.responses = [.expect 64] ∧ t.phase = .outWait ∧ (setsOf t.bus.trace).take 4 = repeatedStartSets := by decide +kernel

/-- P1, request 2: one byte read, NACKed, then stopped; 54 `Set` events. -/
theorem test_read_one :
    let t := after (given [.low, .low, .high, .low, .high, .high, .low, .high, .low]
      [line (.io true true .read 0x50#16 1#16 [])])
    t.responses = [.reply [0x5A#8]] ∧ t.status = 1#8 ∧ (setsOf t.bus.trace).length = 54 ∧
      t.memRead ⟨0, by decide⟩ = 0x5A#8 := by decide +kernel

/-- B5, second event: the NACKed byte ends the transfer, the third is never written, `status` stays 1. -/
theorem test_data_nack :
    let t := after (pending .outWait .write true 3#16 0#16 [.low, .high] [.host (.dataOut [1#8, 2#8, 3#8])])
    t.responses = [.stall .dataNack] ∧ t.status = 1#8 ∧ t.phase = .idle ∧ t.pend.done = 2#16 ∧
      (setsOf t.bus.trace).length = 57 := by decide +kernel

/-- B8, last event: the payload's surplus is dropped. -/
theorem test_data_out_last :
    let t := after (pending .outWait .write true 3#16 1#16 [.low, .low] [.host (.dataOut [0xBB#8, 0xCC#8, 0xDD#8])])
    t.responses = [.accept] ∧ t.phase = .idle ∧ t.pend.done = 3#16 ∧ t.bus.busPhase = .busIdle ∧
      t.memRead ⟨2, by decide⟩ = 0#8 := by decide +kernel

/-- B8, second event: an empty payload asks again and writes nothing. -/
theorem test_data_out_empty :
    let t := after (pending .outWait .write true 3#16 0#16 [] [.host (.dataOut [])])
    t.responses = [.expect 3] ∧ t.phase = .outWait ∧ t.bus.trace = [] := by decide +kernel

/-- P4, shortened: the last chunk of a read of two chunks is one byte, NACKed, then stopped. -/
theorem test_data_in_last :
    let t := after (pending .inMore .read true 65#16 64#16 [.high, .high, .low, .low, .low, .high, .high, .high]
      [.host .dataIn])
    t.responses = [.reply [0xC7#8]] ∧ t.phase = .idle ∧ t.pend.done = 65#16 ∧
      (setsOf t.bus.trace)[18]? = some (.sda, .high) ∧ t.bus.busPhase = .busIdle := by decide +kernel

/-- B14: events no phase expects. -/
theorem test_stray_events :
    (after (given [] [.host .dataIn])).responses = [.stall .noDataStage] ∧
      (after (given [] [.host (.dataOut [1#8])])).responses = [.stall .noDataStage] ∧
      (after (given [] [.host .statusAck])).responses = [.accept] := by decide +kernel

/-- R-2: a reset during a held transaction releases both outputs without a STOP. -/
theorem test_reset_while_held :
    let t := after (pending .inMore .read true 200#16 64#16 [] [.reset])
    t.bus.sclOut = .high ∧ t.bus.busPhase = .busIdle ∧ t.phase = .idle ∧ t.status = 0#8 ∧ t.bus.trace = [] ∧
      t.inputs = [] := by
  decide +kernel

/-- R86, R87: the host's loop over P2's two probes. -/
theorem test_host_loop_probe :
    (hostRun 1 (AsmLine.request (.io true true .write 0x48#16 0#16 [])) [] (given [.high] [])).1 = .stall [] ∧
      (hostRun 1 (AsmLine.request (.io true true .write 0x50#16 0#16 [])) [] (given [.low] [])).1 = .ok [] := by
  decide +kernel

/-- R42: the buffer keeps its canonical form when a byte becomes what an unlisted byte reads as. -/
theorem test_memory_canonical :
    Memory.set 3 0#8 [(1, 5#8), (3, 7#8), (9, 1#8)] = [(1, 5#8), (9, 1#8)] ∧
      Memory.set 3 2#8 [(1, 5#8), (9, 1#8)] = [(1, 5#8), (3, 2#8), (9, 1#8)] ∧
      ¬ Memory.wf [(1, 0#8)] ∧ ¬ Memory.wf [(64, 1#8)] ∧ ¬ Memory.wf [(2, 1#8), (1, 1#8)] := by decide +kernel

/-! ### Witnesses: for each statement with hypotheses, a state and operands that meet all of them -/

/-- A held bus in the middle of a transfer meets the invariants. -/
theorem pending_between (ph : Phase) (dir : Direction) (e : Bool) (len done : Half) (ds : List Level)
    (ins : List Input) (h : done.toNat < len.toNat) : betweenEvents (pending ph dir e len done ds ins) :=
  ⟨fun _ => rfl, fun g => absurd (show BusPhase.busActive = .busIdle from g) (by decide), fun _ => ⟨rfl, h⟩, .inr (.inl rfl)⟩

/-- The reset state with anything to come meets the invariants. -/
theorem given_between (ds : List Level) (ins : List Input) : betweenEvents (given ds ins) :=
  ⟨fun g => absurd (show BusPhase.busIdle = .busActive from g) (by decide), fun _ => ⟨rfl, rfl⟩, fun h => absurd rfl h, .inl rfl⟩

theorem witness_EncodeOfDecodeIsIdentity :
    decode [0x41#8, 0x07#8, 0xFE#8, 0xFF#8, 0xD0#8, 0x80#8, 0xFF#8, 0xFF#8] =
      .ok (.i2cIoBeginEnd ⟨0x41#8, 0xFFFE#16, 0x80D0#16, 0xFFFF#16⟩) := rfl

/-- Both clauses: a delivered packet, and a table word. -/
theorem witness_StepRunsDecodedInstruction :
    (packetRequest [0xC1#8, 0x03#8, 0#8, 0#8, 0#8, 0#8, 1#8, 0#8] = .ok ⟨0xC1#8, 3#8, 0#16, 0#16, 1#16⟩ ∧
      decode [0xC1#8, 0x03#8, 0#8, 0#8, 0#8, 0#8, 1#8, 0#8] = .ok (.getStatus ⟨0xC1#8, 0#16, 0#16, 1#16⟩) ∧
      (given [] [req 3#8 0#16 0#16 1#16]).inputs = [.host (.setup ⟨0xC1#8, 3#8, 0#16, 0#16, 1#16⟩)]) ∧
      decodeTableWord 8 7 = some (.i2cIoBeginEnd ⟨0#8, 0#16, 0#16, 0#16⟩) := ⟨⟨rfl, rfl, rfl⟩, rfl⟩

theorem witness_EveryHostEventGetsOneResponse :
    betweenEvents (pending .inMore .read true 65#16 64#16 [] [.host .dataIn]) ∧
      (pending .inMore .read true 65#16 64#16 [] [.host .dataIn]).inputs = [.host .dataIn] :=
  ⟨pending_between _ _ _ _ _ _ _ (by decide +kernel), rfl⟩

theorem witness_NoInputMeansWaiting : State.reset.inputs = [] := rfl

/-- The four ends of the two ranges: selectors 0, 3, 8 and 255. -/
theorem witness_StatelessSetupsWriteNoSlot :
    ∀ sel ∈ [0#8, 3#8, 8#8, 255#8],
      (given [] [req sel 0#16 0#16 1#16]).inputs = [.host (.setup ⟨0xC1#8, sel, 0#16, 0#16, 1#16⟩)] ∧
        (sel.toNat < 4 ∨ 8 ≤ sel.toNat) := by decide +kernel

theorem witness_UnsupportedSelectorStalls :
    ∀ sel ∈ [8#8, 255#8],
      (given [] [req sel 0#16 0#16 1#16]).inputs = [.host (.setup ⟨0xC1#8, sel, 0#16, 0#16, 1#16⟩)] ∧
        8 ≤ sel.toNat := by decide +kernel

/-- The four instructions `ioForms` names. -/
theorem witness_ioForms :
    (Instr.i2cIo, false, false) ∈ ioForms ∧ (Instr.i2cIoBegin, true, false) ∈ ioForms ∧
      (Instr.i2cIoEnd, false, true) ∈ ioForms ∧ (Instr.i2cIoBeginEnd, true, true) ∈ ioForms := by simp [ioForms]

theorem witness_AddressNackAborts :
    (Instr.i2cIo, false, false) ∈ ioForms ∧ (heldBus [.high]).nextSda = .high ∧
      (given [.high] []).bus.nextSda = .high := ⟨witness_ioForms.1, rfl, rfl⟩

theorem witness_ZeroLengthRequestAccepts :
    (Instr.i2cIoBeginEnd, true, true) ∈ ioForms ∧ (given [.low] []).bus.nextSda = .low ∧
      (SetupFields.mk 0x41#8 0#16 0x50#16 0#16).length = 0#16 := ⟨witness_ioForms.2.2.2, rfl, rfl⟩

theorem witness_WriteSetupExpectsFirstChunk :
    (Instr.i2cIoBegin, true, false) ∈ ioForms ∧ (given [.low] []).bus.nextSda = .low ∧
      (∀ n ∈ [1, 64, 65, 65535],
        (SetupFields.mk 0x41#8 2#16 0x50#16 (BitVec.ofNat 16 n)).length ≠ 0#16 ∧
          isRead ⟨0x41#8, 2#16, 0x50#16, BitVec.ofNat 16 n⟩ = false) :=
  ⟨witness_ioForms.2.1, rfl, by decide +kernel⟩

/-- A last chunk of 64 bytes, and a chunk with one byte more to come. -/
theorem witness_ReadSetupRepliesFirstChunk :
    (Instr.i2cIoEnd, false, true) ∈ ioForms ∧ (given [.low] []).bus.nextSda = .low ∧ Memory.wf (given [.low] []).buf ∧
      (∀ n ∈ [1, 64, 65],
        (SetupFields.mk 0xC1#8 1#16 0x50#16 (BitVec.ofNat 16 n)).length ≠ 0#16 ∧
          isRead ⟨0xC1#8, 1#16, 0x50#16, BitVec.ofNat 16 n⟩ = true) ∧
      min 64 (64#16 : Half).toNat = (64#16 : Half).toNat ∧ min 64 (65#16 : Half).toNat ≠ (65#16 : Half).toNat :=
  ⟨witness_ioForms.2.2.1, rfl, by decide +kernel, by decide +kernel, by decide +kernel, by decide +kernel⟩

theorem witness_NewSetupDiscardsPendingTransfer : (Instr.i2cIoBeginEnd, true, true) ∈ ioForms :=
  witness_ioForms.2.2.2

/-- The last chunk (1 byte left, and 64) and a chunk with more to come (65 left), END set and not. -/
theorem witness_DataInRepliesNextChunk :
    ∀ done ∈ [64, 1, 0], ∀ e ∈ [true, false],
      let s := pending .inMore .read e 65#16 (BitVec.ofNat 16 done) [] [.host .dataIn]
      s.inputs = [.host .dataIn] ∧ s.phase = .inMore ∧ s.pend.done.toNat < s.pend.len.toNat ∧
        s.bus.busPhase = .busActive ∧ Memory.wf s.buf := by decide +kernel

/-- A payload that ends the transfer, one that leaves a byte, and the empty one. -/
theorem witness_DataOutWritesAcknowledgedChunk :
    ∀ payload ∈ [[1#8, 2#8], [1#8], []],
      let s := pending .outWait .write true 2#16 0#16 [.low, .low] [.host (.dataOut payload)]
      s.inputs = [.host (.dataOut payload)] ∧ s.phase = .outWait ∧ s.pend.done.toNat < s.pend.len.toNat ∧
        s.bus.busPhase = .busActive ∧ (s.bus.sclOut = .low ∧ s.bus.sdaOut = .high) ∧ Memory.wf s.buf ∧
        nextAnswers (min payload.length (min 64 (s.pend.len.toNat - s.pend.done.toNat))) s.bus =
          List.replicate (min payload.length (min 64 (s.pend.len.toNat - s.pend.done.toNat))) .low := by decide +kernel

/-- The first byte of two not acknowledged, and the last. -/
theorem witness_DataNackAborts :
    ∀ j ∈ [0, 1],
      let s := pending .outWait .write true 2#16 0#16 (List.replicate j .low ++ [.high]) [.host (.dataOut [1#8, 2#8])]
      s.inputs = [.host (.dataOut [1#8, 2#8])] ∧ s.phase = .outWait ∧ s.pend.done.toNat < s.pend.len.toNat ∧
        Memory.wf s.buf ∧ j < min 2 (min 64 (s.pend.len.toNat - s.pend.done.toNat)) ∧
        nextAnswers (j + 1) s.bus = List.replicate j .low ++ [.high] := by decide +kernel

/-- Each clause: `DataIn` in IDLE and OUT_WAIT, `DataOut` in IDLE and IN_MORE, `StatusAck`. -/
theorem witness_UnexpectedEventsWriteNothing :
    (∀ ph ∈ [Phase.idle, .outWait],
        (pending ph .write true 2#16 0#16 [] [.host .dataIn]).inputs = [.host .dataIn] ∧
          (pending ph .write true 2#16 0#16 [] [.host .dataIn]).phase ≠ .inMore) ∧
      (∀ ph ∈ [Phase.idle, .inMore],
        (pending ph .read true 2#16 0#16 [] [.host (.dataOut [])]).inputs = [.host (.dataOut [])] ∧
          (pending ph .read true 2#16 0#16 [] [.host (.dataOut [])]).phase ≠ .outWait) ∧
      (given [] [.host .statusAck]).inputs = [.host .statusAck] := by decide +kernel

theorem witness_SampleReadsDrivenLowOrBusAnswer :
    Bus.reset.start.sdaOut = .low ∧ (given [.low] []).bus.sdaOut = .high := ⟨rfl, rfl⟩

/-- On a released bus and on a held one. -/
theorem witness_StartConditionNeedsReleasedBus :
    Bus.reset.start.trace = Bus.reset.trace ++ [.delay 0, dDn, .delay 1, .delay 0, cDn, .delay 1] ∧
      (heldBus []).start.trace = (heldBus []).trace ++ [.delay 0, dDn, .delay 1, .delay 0, cDn, .delay 1] := by decide +kernel

theorem witness_RepeatedStartMakesOneStart :
    (∃ added, (heldBus []).repeatedStart.trace = (heldBus []).trace ++ added ∧ (heldBus []).sclOut = .low) ∧
      ∃ added, Bus.reset.repeatedStart.trace = Bus.reset.trace ++ added ∧ Bus.reset.sdaOut = .high :=
  ⟨⟨_, rfl, rfl⟩, ⟨_, rfl, rfl⟩⟩

theorem witness_StopConditionsFromHeldAndReleased :
    (∃ added, (heldBus []).stop.trace = (heldBus []).trace ++ added ∧ (heldBus []).sclOut = .low) ∧
      ∃ added, Bus.reset.stop.trace = Bus.reset.trace ++ added ∧ Bus.reset.sclOut = .high ∧ Bus.reset.sdaOut = .high :=
  ⟨⟨_, rfl, rfl⟩, ⟨_, rfl, rfl, rfl⟩⟩

/-- The bands of R106 meet at 3 and 5. -/
theorem witness_DelayPairMeetsPeriod : 2 < 3 ∧ 3 ≤ 3 ∧ 3 < 5 ∧ 3 ≤ 4 ∧ 4 < 5 ∧ 5 ≤ 5 := by decide +kernel

theorem witness_DeviceResetReinitialisesSlots :
    (pending .inMore .read true 200#16 64#16 [] [.reset]).inputs = [.reset] := rfl

theorem witness_StepKeepsBetweenEvents :
    ∃ t, betweenEvents (pending .inMore .read true 65#16 64#16 [] [.host .dataIn]) ∧
      step (pending .inMore .read true 65#16 64#16 [] [.host .dataIn]) = .next t :=
  ⟨_, pending_between _ _ _ _ _ _ _ (by decide +kernel), rfl⟩

theorem witness_StepKeepsBusHeldOrReleased :
    ∃ t, betweenEvents (pending .outWait .write true 2#16 0#16 [] [.host (.dataOut [1#8])]) ∧
      ((pending .outWait .write true 2#16 0#16 [] [.host (.dataOut [1#8])]).bus.busPhase = .busActive →
        held (pending .outWait .write true 2#16 0#16 [] [.host (.dataOut [1#8])]).bus) ∧
      step (pending .outWait .write true 2#16 0#16 [] [.host (.dataOut [1#8])]) = .next t :=
  ⟨_, pending_between _ _ _ _ _ _ _ (by decide +kernel), fun _ => ⟨rfl, rfl⟩, rfl⟩

theorem witness_StepKeepsBufferCanonical :
    ∃ t, Memory.wf (pending .outWait .write true 2#16 0#16 [] [.host (.dataOut [1#8])]).buf ∧
      step (pending .outWait .write true 2#16 0#16 [] [.host (.dataOut [1#8])]) = .next t :=
  ⟨_, by decide +kernel, rfl⟩

theorem witness_TimingPairNeverChanges :
    ∃ t, (given [] [req 2#8 10#16 0#16 0#16]).bus.delayBefore = 0 ∧
      (given [] [req 2#8 10#16 0#16 0#16]).bus.delayAfter = 1 ∧
      step (given [] [req 2#8 10#16 0#16 0#16]) = .next t := ⟨_, rfl, rfl, rfl⟩

/-- An event of each clause: one that is no I2C_IO setup, and one that is (selectors 3, 4, 7 and 8). -/
theorem witness_StatusIsTheLastAddressPhase :
    (∃ t, step (given [] [.host .statusAck]) = .next t) ∧
      (∃ t, step (given [] [req 3#8 0#16 0#16 1#16]) = .next t) ∧
      (∃ t, step (given [.low] [req 4#8 0#16 0x50#16 0#16]) = .next t) ∧
      (∃ t, step (given [.high] [req 7#8 0#16 0x50#16 0#16]) = .next t) ∧
      ∃ t, step (given [] [req 8#8 0#16 0#16 1#16]) = .next t :=
  ⟨⟨_, rfl⟩, ⟨_, rfl⟩, ⟨_, rfl⟩, ⟨_, rfl⟩, ⟨_, rfl⟩⟩

/-- Serves TraceOnlyGrows, EverySampleIsTheNextBusAnswer, EveryStretchIsTheNextClockOutcome,
SdaIsSampledOnlyWhileReleased and EveryHandlerIsBounded. -/
theorem witness_trace_of_a_step :
    (given [.low] [req 7#8 0#16 0x50#16 0#16]).inputs = [.host (.setup ⟨0xC1#8, 7#8, 0#16, 0x50#16, 0#16⟩)] ∧
      ∃ t, step (given [.low] [req 7#8 0#16 0x50#16 0#16]) = .next t ∧
        ∃ added, t.bus.trace = (given [.low] [req 7#8 0#16 0x50#16 0#16]).bus.trace ++ added :=
  ⟨rfl, _, rfl, _, (List.nil_append _).symm⟩

/-- BEGIN_END on a released bus, and END on a held one. -/
theorem witness_SetupFrameConditions :
    ((Instr.i2cIoBeginEnd, true, true) ∈ ioForms ∧ released (given [.low] []).bus ∧
        ∃ t, exec (.i2cIoBeginEnd ⟨0x41#8, 0#16, 0x50#16, 0#16⟩) (given [.low] []) = .next t ∧
          ∃ added, t.bus.trace = (given [.low] []).bus.trace ++ added) ∧
      (Instr.i2cIoEnd, false, true) ∈ ioForms ∧ held (pending .idle .write true 0#16 0#16 [.low] []).bus ∧
        ∃ t, exec (.i2cIoEnd ⟨0x41#8, 0#16, 0x50#16, 0#16⟩) (pending .idle .write true 0#16 0#16 [.low] []) = .next t ∧
          ∃ added, t.bus.trace = (pending .idle .write true 0#16 0#16 [.low] []).bus.trace ++ added :=
  ⟨⟨witness_ioForms.2.2.2, ⟨rfl, rfl⟩, _, rfl, _, (List.nil_append _).symm⟩,
    witness_ioForms.2.2.1, ⟨rfl, rfl⟩, _, rfl, _, (List.nil_append _).symm⟩

/-- What the witnesses of DataStageMakesNoConditionButStop share: the statement's hypotheses about a state. -/
def DataStageHypotheses (s : State) (ev : HostEvent) : Prop :=
  s.inputs = [.host ev] ∧ (ev = .dataIn ∨ ∃ bytes, ev = .dataOut bytes) ∧ held s.bus ∧ s.bus.busPhase = .busActive ∧
    ∃ t, step s = .next t ∧ ∃ added, t.bus.trace = s.bus.trace ++ added

/-- A `DataOut` that ends its transfer with END: a STOP. -/
theorem witness_DataStageMakesNoConditionButStop :
    DataStageHypotheses (pending .outWait .write true 1#16 0#16 [.low] [.host (.dataOut [1#8])]) (.dataOut [1#8]) ∧
      (after (pending .outWait .write true 1#16 0#16 [.low] [.host (.dataOut [1#8])])).bus.busPhase = .busIdle :=
  ⟨⟨rfl, .inr ⟨_, rfl⟩, ⟨rfl, rfl⟩, rfl, _, rfl, _, (List.nil_append _).symm⟩, by decide +kernel⟩

/-- A `DataIn` that ends its transfer with END: a STOP. -/
theorem witness_DataStageMakesNoConditionButStop_data_in :
    DataStageHypotheses (pending .inMore .read true 65#16 64#16 (List.replicate 8 .low) [.host .dataIn]) .dataIn ∧
      (after (pending .inMore .read true 65#16 64#16 (List.replicate 8 .low) [.host .dataIn])).bus.busPhase = .busIdle :=
  ⟨⟨rfl, .inl rfl, ⟨rfl, rfl⟩, rfl, _, rfl, _, (List.nil_append _).symm⟩, by decide +kernel⟩

/-- No STOP: a `DataIn` that ends its transfer without END, and a `DataOut` with a byte still to come. -/
theorem witness_DataStageMakesNoConditionButStop_no_stop :
    (DataStageHypotheses (pending .inMore .read false 65#16 64#16 (List.replicate 8 .low) [.host .dataIn]) .dataIn ∧
        (after (pending .inMore .read false 65#16 64#16 (List.replicate 8 .low)
          [.host .dataIn])).bus.busPhase = .busActive) ∧
      DataStageHypotheses (pending .outWait .write true 2#16 0#16 [.low] [.host (.dataOut [1#8])]) (.dataOut [1#8]) ∧
        (after (pending .outWait .write true 2#16 0#16 [.low] [.host (.dataOut [1#8])])).bus.busPhase = .busActive :=
  ⟨⟨⟨rfl, .inl rfl, ⟨rfl, rfl⟩, rfl, _, rfl, _, (List.nil_append _).symm⟩, by decide +kernel⟩,
    ⟨rfl, .inr ⟨_, rfl⟩, ⟨rfl, rfl⟩, rfl, _, rfl, _, (List.nil_append _).symm⟩, by decide +kernel⟩

/-- Two states with different buffers and different idle `pend`, both canonical. -/
theorem witness_OldBufferAndIdlePendAreNeverObserved :
    agreeOnObservable (given [] [.host .dataIn])
        { given [] [.host .dataIn] with buf := [(0, 9#8)], pend := { Pending.reset with len := 7#16 } } ∧
      Memory.wf (given [] [.host .dataIn]).buf ∧ Memory.wf [(0, 9#8)] :=
  ⟨⟨rfl, rfl, rfl, fun h => absurd rfl h, rfl, rfl⟩, by decide +kernel, by decide +kernel⟩

/-- Two states whose CLOCK agents differ. -/
theorem witness_StretchOutcomeChangesOnlyTheTrace :
    agreeButStretch (given [.low] [])
      { given [.low] [] with bus := { (given [.low] []).bus with clockAnswers := [.timeout] } } :=
  ⟨rfl, rfl, rfl, rfl, rfl, rfl, rfl, rfl, rfl, rfl, rfl, rfl, rfl, rfl⟩

end Sys2Proof.Tests
end

section
/-!
PROOFS for the statements of 10_state.md: the reset values (O37), the buffer's canonical form (O42), the status byte
(O44), and that the buffer's old content and an idle `pend` are never observed (O51).
-/

namespace Sys2Proof.Machine

open Sys2Proof.Safety

/-! ### What a setup packet does, by its selector -/

/-- The decoded instruction has the request's selector. -/
theorem decodeRequest_sel {r : Request} {i : Instr} (h : decodeRequest r = .ok i) : r.sel = i.sel := by
  unfold decodeRequest at h
  split_ifs at h <;> injection h with h <;> subst h <;> assumption

/-- The decoder refuses no selector below 8. -/
theorem decodeRequest_error {r : Request} {e : DecodeError} (h : decodeRequest r = .error e) : 8 ≤ r.sel.toNat := by
  unfold decodeRequest at h
  split_ifs at h
  simp only [Config.selEcho, Config.selGetCapabilities, Config.selSetClockPeriod, Config.selGetStatus, Config.selI2cIo,
    Config.selI2cIoBegin, Config.selI2cIoEnd, Config.selI2cIoBeginEnd] at *
  bv_omega

/-- Whether a selector is one of the four I2C_IO forms (R72, R73). -/
def isIoSelector (sel : Byte) : Bool := decide (4 ≤ sel.toNat ∧ sel.toNat < 8)

/-- R150: a setup is an I2C_IO setup for the selectors 4 to 7; every other one only responds, and of the state its
response reads `status` alone. -/
theorem onSetup_cases (r : Request) :
    (isIoSelector r.sel = false ∧ ∃ a : Byte → Response, ∀ s, onSetup r s = .next (s.respond (a s.status))) ∨
      (isIoSelector r.sel = true ∧ ∃ b e f, ∀ s, onSetup r s = .next (ioSetup b e f s)) := by
  unfold onSetup
  cases hd : decodeRequest r with
  | error e =>
    have h8 := decodeRequest_error hd
    exact .inl ⟨by simp [isIoSelector]; omega, fun _ => .stall .unsupportedRequest, fun _ => rfl⟩
  | ok i =>
    rw [decodeRequest_sel hd]
    cases i with
    | echo f => exact .inl ⟨rfl, fun _ => .reply (cutReply f.length (replyHalf f.value)), fun _ => rfl⟩
    | getCapabilities f =>
      exact .inl ⟨rfl, fun _ => .reply (cutReply f.length (replyWord32 Config.capabilityWord)), fun _ => rfl⟩
    | setClockPeriod f => exact .inl ⟨rfl, fun _ => .accept, fun _ => rfl⟩
    | getStatus f => exact .inl ⟨rfl, fun status => .reply (cutReply f.length [status]), fun _ => rfl⟩
    | i2cIo f => exact .inr ⟨rfl, false, false, f, fun _ => rfl⟩
    | i2cIoBegin f => exact .inr ⟨rfl, true, false, f, fun _ => rfl⟩
    | i2cIoEnd f => exact .inr ⟨rfl, false, true, f, fun _ => rfl⟩
    | i2cIoBeginEnd f => exact .inr ⟨rfl, true, true, f, fun _ => rfl⟩

/-! ### The frames of the chunk handlers: status and buffer -/

@[simp] theorem stopIfEnd_status (s : State) : (stopIfEnd s).status = s.status := (stopIfEnd_frame s).1

@[simp] theorem stopIfEnd_buf (s : State) : (stopIfEnd s).buf = s.buf := by
  obtain ⟨-, -, -, hbuf, -⟩ := stopIfEnd_frame s
  exact hbuf

@[simp] theorem advanceRead_status (n : Nat) (s : State) : (advanceRead n s).status = s.status := by
  unfold advanceRead
  dsimp only
  split <;> simp

@[simp] theorem advanceRead_buf (n : Nat) (s : State) : (advanceRead n s).buf = s.buf := by
  unfold advanceRead
  dsimp only
  split <;> simp

@[simp] theorem readChunk_status (s : State) : (readChunk s).status = s.status := by
  simpa [readChunk] using (readOver_frame (indexes (chunkSize s.pend)) s).1

@[simp] theorem chunkWritten_status (s : State) : (chunkWritten s).status = s.status := by
  unfold chunkWritten
  split <;> simp

@[simp] theorem chunkWritten_buf (s : State) : (chunkWritten s).buf = s.buf := by
  unfold chunkWritten
  split <;> simp

/-- A data NACK leaves `status` (D21). -/
@[simp] theorem dataNacked_status (s : State) : (dataNacked s).status = s.status := rfl

@[simp] theorem dataNacked_buf (s : State) : (dataNacked s).buf = s.buf := rfl

/-- A write chunk leaves `status`, whether or not every byte is acknowledged. -/
@[simp] theorem writeChunk_status (m : Nat) (s : State) : (writeChunk m s).status = s.status := by
  obtain ⟨hstatus, -⟩ := writeOver_frame (indexes m) s
  unfold writeChunk
  dsimp only
  split <;> simp [hstatus]

/-- A write chunk only reads the buffer. -/
@[simp] theorem writeChunk_buf (m : Nat) (s : State) : (writeChunk m s).buf = s.buf := by
  obtain ⟨-, -, hbuf, -⟩ := writeOver_frame (indexes m) s
  unfold writeChunk
  dsimp only
  split <;> simp [hbuf]

/-- A read chunk keeps the buffer canonical. -/
theorem readChunk_wf {s : State} (h : Memory.wf s.buf) : Memory.wf (readChunk s).buf := by
  simpa [readChunk] using readOver_wf (indexes (chunkSize s.pend)) h

/-! ### O37: the reset values -/

/-- Settles O37: each slot of the reset state is R37's value, the delay pair computed from the period at reset. -/
theorem resetValuesOfEverySlot : Obligations.ResetValuesOfEverySlot :=
  ⟨rfl, rfl, rfl, rfl, rfl, rfl, rfl, rfl⟩

/-! ### O42: the buffer stays canonical -/

theorem addressAcked_wf {s : State} (h : Memory.wf s.buf) : Memory.wf (addressAcked s).buf := by
  unfold addressAcked
  dsimp only
  split
  · simpa using h
  · split
    · exact readChunk_wf h
    · exact h

theorem ioSetup_wf (b e : Bool) (f : SetupFields) {s : State} (h : Memory.wf s.buf) :
    Memory.wf (ioSetup b e f s).buf := by
  unfold ioSetup
  dsimp only
  split
  · exact addressAcked_wf h
  · exact h

theorem onDataIn_wf {s : State} (h : Memory.wf s.buf) : Memory.wf (onDataIn s).buf := by
  unfold onDataIn
  split
  · exact readChunk_wf h
  · exact h
  · exact h

theorem onDataOut_wf (bytes : List Byte) {s : State} (h : Memory.wf s.buf) : Memory.wf (onDataOut bytes s).buf := by
  unfold onDataOut
  split
  · dsimp only
    rw [writeChunk_buf]
    exact storeOver_wf _ bytes h
  · exact h
  · exact h

/-- Whatever the input, its handler keeps the buffer canonical. -/
theorem handleInput_wf {e : Input} {s t : State} (h : Memory.wf s.buf) (ht : handleInput e s = .next t) :
    Memory.wf t.buf := by
  cases e with
  | reset => cases ht; exact Memory.wf_nil
  | host ev =>
    cases ev with
    | setup r =>
      change onSetup r s = .next t at ht
      rcases onSetup_cases r with ⟨-, a, ha⟩ | ⟨-, b, e, f, hio⟩
      · rw [ha] at ht; cases ht; exact h
      · rw [hio] at ht; cases ht; exact ioSetup_wf b e f h
    | dataIn => cases ht; exact onDataIn_wf h
    | dataOut bytes => cases ht; exact onDataOut_wf bytes h
    | statusAck => cases ht; exact h

/-- Settles O42: only the loops of a chunk write the buffer, and each of their writes keeps the form. -/
theorem stepKeepsBufferCanonical : Obligations.StepKeepsBufferCanonical := by
  intro s t hs hstep
  rcases step_cases hstep with ⟨-, rfl⟩ | ⟨e, rest, -, ht⟩
  · exact hs
  · exact handleInput_wf (s := { s with inputs := rest }) hs ht

/-! ### O44: status is the last address phase -/

theorem Bus.writeBits_nextSda (b : Byte) (n : Nat) (u : Bus) : (Bus.writeBits b n u).nextSda = u.nextSda := by
  induction n generalizing u with
  | zero => rfl
  | succ n ih => simp [Bus.writeBits, ih, Bus.clockPulse]

/-- R128: the acknowledge of a written byte is the BUS agent's next answer. -/
theorem Bus.write_ack (b : Byte) (u : Bus) : (u.write b).1 = ackFlag u.nextSda := by
  simp [Bus.write, Bus.sampleSda_released, Bus.writeBits_nextSda]

theorem Bus.start_nextSda (u : Bus) : u.start.nextSda = u.nextSda := by
  simp [Bus.nextSda, Bus.start]

theorem Bus.repeatedStart_nextSda (u : Bus) : u.repeatedStart.nextSda = u.nextSda := by
  simp [Bus.nextSda, Bus.repeatedStart]

/-- R172: the address phase is acknowledged when the BUS agent's next answer is LOW. -/
theorem addressPhase_ack (s : State) : (addressPhase s).1 = ackFlag s.bus.nextSda := by
  unfold addressPhase
  dsimp only
  split
  · rw [Bus.write_ack, Bus.start_nextSda]
  · rw [Bus.write_ack, Bus.repeatedStart_nextSda]

theorem addressAcked_status (s : State) : (addressAcked s).status = addressStatus true := by
  unfold addressAcked
  dsimp only
  split
  · simp
  · split <;> simp

/-- An I2C_IO setup writes `status` once, by the acknowledge of its address phase (R172, R173). -/
theorem ioSetup_status (b e : Bool) (f : SetupFields) (s : State) :
    (ioSetup b e f s).status = addressStatus (ackFlag s.bus.nextSda) := by
  have hack : (addressPhase (openTransfer b e f s)).1 = ackFlag s.bus.nextSda := addressPhase_ack _
  unfold ioSetup
  dsimp only
  rw [← hack]
  split
  · next h => rw [addressAcked_status, h]
  · next h => rw [h]; rfl

theorem addressStatus_ackFlag (d : Level) : addressStatus (ackFlag d) = if d = .low then 1#8 else 2#8 := by
  cases d <;> rfl

theorem onDataIn_status (s : State) : (onDataIn s).status = s.status := by
  unfold onDataIn
  split <;> simp

theorem onDataOut_status (bytes : List Byte) (s : State) : (onDataOut bytes s).status = s.status := by
  unfold onDataOut
  split
  · dsimp only
    rw [writeChunk_status]
    obtain ⟨-, hstatus, -⟩ := storeOver_frame (indexes (min bytes.length (chunkSize s.pend))) bytes s
    exact hstatus
  · rfl
  · rfl

/-- Settles O44: an I2C_IO setup writes the result of its address phase, and no other handler writes `status`. -/
theorem statusIsTheLastAddressPhase : Obligations.StatusIsTheLastAddressPhase := by
  intro s t ev rest hin hstep
  rw [step_of_cons hin] at hstep
  cases ev with
  | setup r =>
    change onSetup r _ = _ at hstep
    rcases onSetup_cases r with ⟨hsel, a, ha⟩ | ⟨hsel, b, e, f, hio⟩
    · rw [ha] at hstep
      cases hstep
      refine ⟨fun _ => rfl, fun _ hr h4 h8 => ?_⟩
      cases hr
      simp [isIoSelector, h4, h8] at hsel
    · rw [hio] at hstep
      cases hstep
      refine ⟨fun h => ?_, fun _ _ _ _ => (ioSetup_status b e f _).trans (addressStatus_ackFlag _)⟩
      have hout := h r rfl
      have hin := of_decide_eq_true hsel
      omega
  | dataIn => cases hstep; exact ⟨fun _ => onDataIn_status _, fun _ h => nomatch h⟩
  | dataOut bytes => cases hstep; exact ⟨fun _ => onDataOut_status bytes _, fun _ h => nomatch h⟩
  | statusAck => cases hstep; exact ⟨fun _ => rfl, fun _ h => nomatch h⟩

/-! ### O51: the buffer's old content is never observed

Two states that differ in the buffer alone are `s` and `s.withBuf b`. An operation that does not touch the buffer
commutes with `withBuf`; a loop that fills a chunk of it leaves both states with the same bytes there (R42). -/

/-- The state with another staging buffer. -/
def State.withBuf (b : List Host.Cell) (s : State) : State := { s with buf := b }

/-- The states agree on all but the buffer's content. -/
def SameButBuf (s t : State) : Prop := ∃ b, t = s.withBuf b

theorem agreeOnObservable_of_sameButBuf {s t : State} (h : SameButBuf s t) : agreeOnObservable s t := by
  obtain ⟨b, rfl⟩ := h
  exact ⟨rfl, rfl, rfl, fun _ => rfl, rfl, rfl⟩

/-- During a transfer only the buffers can differ. -/
theorem sameButBuf_of_agreeOnObservable {s t : State} (h : agreeOnObservable s t) (hp : s.phase ≠ .idle) :
    SameButBuf s t := by
  obtain ⟨hbus, hstatus, hphase, hpend, hresp, hin⟩ := h
  have hpend := hpend hp
  cases s
  cases t
  simp_all [SameButBuf, State.withBuf]

/-! #### Operations that do not touch the buffer -/

theorem respond_sameButBuf (r : Response) {s t : State} (h : SameButBuf s t) :
    SameButBuf (s.respond r) (t.respond r) := by
  obtain ⟨b, rfl⟩ := h
  exact ⟨b, rfl⟩

theorem setPhase_sameButBuf (p : Phase) {s t : State} (h : SameButBuf s t) :
    SameButBuf { s with phase := p } { t with phase := p } := by
  obtain ⟨b, rfl⟩ := h
  exact ⟨b, rfl⟩

/-- Both states take the same branch when the condition does not read the buffer. -/
theorem ite_sameButBuf {p q : Prop} [Decidable p] [Decidable q] (hpq : p ↔ q) {s s' t t' : State}
    (h : SameButBuf s t) (h' : SameButBuf s' t') : SameButBuf (if p then s else s') (if q then t else t') := by
  by_cases hq : q
  · rwa [if_pos (hpq.mpr hq), if_pos hq]
  · rwa [if_neg (mt hpq.mp hq), if_neg hq]

theorem stopIfEnd_sameButBuf {s t : State} (h : SameButBuf s t) : SameButBuf (stopIfEnd s) (stopIfEnd t) := by
  obtain ⟨b, rfl⟩ := h
  unfold stopIfEnd State.withBuf
  dsimp only
  split <;> exact ⟨b, rfl⟩

theorem advanceRead_sameButBuf (n : Nat) {s t : State} (h : SameButBuf s t) :
    SameButBuf (advanceRead n s) (advanceRead n t) := by
  obtain ⟨b, rfl⟩ := h
  exact ite_sameButBuf Iff.rfl (setPhase_sameButBuf .idle (stopIfEnd_sameButBuf ⟨b, rfl⟩)) ⟨b, rfl⟩

theorem chunkWritten_sameButBuf {s t : State} (h : SameButBuf s t) :
    SameButBuf (chunkWritten s) (chunkWritten t) := by
  obtain ⟨b, rfl⟩ := h
  exact ite_sameButBuf Iff.rfl
    (respond_sameButBuf .accept (setPhase_sameButBuf .idle (stopIfEnd_sameButBuf ⟨b, rfl⟩))) ⟨b, rfl⟩

/-! #### The loops over the buffer -/

/-- The write loop sends the same bytes from two buffers that agree on the chunk. -/
theorem writeOver_withBuf (ks : List (Fin Config.cap)) {b : List Host.Cell} {s : State}
    (h : ∀ k ∈ ks, (s.withBuf b).memRead k = s.memRead k) :
    writeOver ks (s.withBuf b) = ((writeOver ks s).1, (writeOver ks s).2.withBuf b) := by
  induction ks generalizing s with
  | nil => rfl
  | cons k ks ih =>
    have hbyte : writeByte k (s.withBuf b) = ((writeByte k s).1, (writeByte k s).2.withBuf b) := by
      rw [writeByte, h k List.mem_cons_self]
      rfl
    rw [writeOver, writeOver, hbyte]
    dsimp only
    split
    · exact ih fun j hj => h j (List.mem_cons_of_mem k hj)
    · rfl

/-- A write of the same byte to both buffers makes them agree at its index, and keeps every agreement. -/
theorem memRead_memWrite_congr {k j : Fin Config.cap} (v : Byte) {s t : State} (hs : Memory.wf s.buf)
    (ht : Memory.wf t.buf) (h : j ≠ k → s.memRead j = t.memRead j) :
    (s.memWrite k v).memRead j = (t.memWrite k v).memRead j := by
  by_cases hj : j = k
  · subst hj
    rw [State.memRead_memWrite_same j v hs, State.memRead_memWrite_same j v ht]
  · rw [State.memRead_memWrite_other v s hj, State.memRead_memWrite_other v t hj, h hj]

/-- The read loop takes the same bytes from the bus whatever the buffer held. -/
theorem readOver_sameButBuf (ks : List (Fin Config.cap)) {s t : State} (h : SameButBuf s t) :
    SameButBuf (readOver ks s) (readOver ks t) := by
  induction ks generalizing s t with
  | nil => exact h
  | cons k ks ih =>
    obtain ⟨b, rfl⟩ := h
    exact ih ⟨_, rfl⟩

/-- After the read loop the two buffers agree on the chunk (R42). -/
theorem readOver_memRead_eq (ks : List (Fin Config.cap)) {j : Fin Config.cap} {s t : State} (h : SameButBuf s t)
    (hs : Memory.wf s.buf) (ht : Memory.wf t.buf) (hj : j ∉ ks → s.memRead j = t.memRead j) :
    (readOver ks s).memRead j = (readOver ks t).memRead j := by
  induction ks generalizing s t with
  | nil => exact hj List.not_mem_nil
  | cons k ks ih =>
    obtain ⟨b, rfl⟩ := h
    refine ih ⟨_, rfl⟩ (Memory.set_wf _ hs k.isLt) (Memory.set_wf _ ht k.isLt) fun hjs => ?_
    exact memRead_memWrite_congr _ hs ht fun hjk => hj (by simp [hjk, hjs])

/-- The copy loop writes nothing but the buffer. -/
theorem storeOver_sameButBuf (ks : List (Fin Config.cap)) (bs : List Byte) {s t : State} (h : SameButBuf s t) :
    SameButBuf (storeOver ks bs s) (storeOver ks bs t) := by
  induction ks generalizing bs s t with
  | nil => simpa [storeOver] using h
  | cons k ks ih =>
    cases bs with
    | nil => simpa [storeOver] using h
    | cons v bs =>
      obtain ⟨b, rfl⟩ := h
      exact ih bs ⟨_, rfl⟩

theorem mem_indexes_lt {n : Nat} {j : Fin Config.cap} (h : j ∈ indexes n) : j.val < n := by
  simp only [indexes, List.mem_filterMap, List.mem_range] at h
  obtain ⟨k, hk, hj⟩ := h
  split at hj
  · cases hj; exact hk
  · cases hj

/-- After the copy loop both buffers hold the payload's bytes in the chunk (R42). -/
theorem storeOver_memRead_eq {n : Nat} {bs : List Byte} {j : Fin Config.cap} {s t : State} (hn : n ≤ Config.cap)
    (hbs : n ≤ bs.length) (hs : Memory.wf s.buf) (ht : Memory.wf t.buf) (hj : j ∈ indexes n) :
    (storeOver (indexes n) bs s).memRead j = (storeOver (indexes n) bs t).memRead j := by
  have hlt : j.val < 0 + n := by simpa using mem_indexes_lt hj
  rw [indexes_eq_indexesFrom]
  have hsj := (storeOver_memRead n 0 bs (by omega) hbs hs j).1 (Nat.zero_le _) hlt
  have htj := (storeOver_memRead n 0 bs (by omega) hbs ht j).1 (Nat.zero_le _) hlt
  exact Option.some.inj (hsj.symm.trans htj)

/-! #### The chunk handlers -/

theorem advanceRead_memRead (n : Nat) (k : Fin Config.cap) (s : State) :
    (advanceRead n s).memRead k = s.memRead k := by
  rw [State.memRead, advanceRead_buf, State.memRead]

/-- A read chunk hands over bytes it has just read from the bus. -/
theorem readChunk_sameButBuf {s t : State} (h : SameButBuf s t) (hs : Memory.wf s.buf) (ht : Memory.wf t.buf) :
    SameButBuf (readChunk s) (readChunk t) := by
  have hpend : t.pend = s.pend := by obtain ⟨b, rfl⟩ := h; rfl
  have hreply (n : Nat) :
      (indexes n).map (fun k => (advanceRead n (readOver (indexes n) s)).memRead k) =
        (indexes n).map fun k => (advanceRead n (readOver (indexes n) t)).memRead k := by
    refine List.map_congr_left fun k hk => ?_
    rw [advanceRead_memRead, advanceRead_memRead]
    exact readOver_memRead_eq _ h hs ht fun hk' => absurd hk hk'
  unfold readChunk
  dsimp only
  rw [hpend, hreply]
  exact respond_sameButBuf _ (advanceRead_sameButBuf _ (readOver_sameButBuf _ h))

/-- A write chunk sends the same bytes from two buffers that agree on the chunk. -/
theorem writeChunk_sameButBuf {m : Nat} {s t : State} (h : SameButBuf s t)
    (hread : ∀ k ∈ indexes m, s.memRead k = t.memRead k) : SameButBuf (writeChunk m s) (writeChunk m t) := by
  obtain ⟨b, rfl⟩ := h
  unfold writeChunk
  dsimp only
  rw [writeOver_withBuf _ fun k hk => (hread k hk).symm]
  dsimp only
  split
  · exact chunkWritten_sameButBuf ⟨b, rfl⟩
  · exact ⟨b, rfl⟩

theorem addressAcked_sameButBuf {s t : State} (h : SameButBuf s t) (hs : Memory.wf s.buf) (ht : Memory.wf t.buf) :
    SameButBuf (addressAcked s) (addressAcked t) := by
  obtain ⟨b, rfl⟩ := h
  refine ite_sameButBuf Iff.rfl (respond_sameButBuf .accept (stopIfEnd_sameButBuf ⟨b, rfl⟩)) ?_
  dsimp only [State.withBuf]
  split
  · exact readChunk_sameButBuf ⟨b, rfl⟩ hs ht
  · exact ⟨b, rfl⟩

/-! #### The entry points -/

/-- A setup writes every field of `pend` before it reads one (R171). -/
theorem openTransfer_sameButBuf (b e : Bool) (f : SetupFields) {s t : State} (h : agreeOnObservable s t) :
    SameButBuf (openTransfer b e f s) (openTransfer b e f t) := by
  obtain ⟨hbus, hstatus, -, -, hresp, hin⟩ := h
  exact ⟨t.buf, by simp [openTransfer, State.withBuf, hbus, hstatus, hresp, hin]⟩

theorem ioSetup_sameButBuf (b e : Bool) (f : SetupFields) {s t : State} (h : agreeOnObservable s t)
    (hs : Memory.wf s.buf) (ht : Memory.wf t.buf) : SameButBuf (ioSetup b e f s) (ioSetup b e f t) := by
  obtain ⟨c, hc⟩ := openTransfer_sameButBuf b e f h
  have hphase : addressPhase (openTransfer b e f t) =
      ((addressPhase (openTransfer b e f s)).1, (addressPhase (openTransfer b e f s)).2.withBuf c) := by
    rw [hc]
    rfl
  have hcw : Memory.wf c := by
    have hcb : c = t.buf := (congrArg State.buf hc).symm
    exact hcb ▸ ht
  unfold ioSetup
  rw [hphase]
  dsimp only
  split
  · exact addressAcked_sameButBuf ⟨c, rfl⟩ hs hcw
  · exact ⟨c, rfl⟩

/-- The same response to both states keeps their agreement. -/
theorem respond_agreeOnObservable (r : Response) {s t : State} (h : agreeOnObservable s t) :
    agreeOnObservable (s.respond r) (t.respond r) := by
  obtain ⟨hbus, hstatus, hphase, hpend, hresp, hin⟩ := h
  exact ⟨hbus, hstatus, hphase, hpend, by simp [hresp], hin⟩

theorem onDataIn_agreeOnObservable {s t : State} (h : agreeOnObservable s t) (hs : Memory.wf s.buf)
    (ht : Memory.wf t.buf) : agreeOnObservable (onDataIn s) (onDataIn t) := by
  have ⟨_, _, hphase, _⟩ := h
  unfold onDataIn
  rw [← hphase]
  split
  · next hp =>
    have hsame := sameButBuf_of_agreeOnObservable h (by simp [hp])
    exact agreeOnObservable_of_sameButBuf (readChunk_sameButBuf hsame hs ht)
  · exact respond_agreeOnObservable _ h
  · exact respond_agreeOnObservable _ h

theorem onDataOut_agreeOnObservable (bytes : List Byte) {s t : State} (h : agreeOnObservable s t)
    (hs : Memory.wf s.buf) (ht : Memory.wf t.buf) : agreeOnObservable (onDataOut bytes s) (onDataOut bytes t) := by
  have ⟨_, _, hphase, _⟩ := h
  unfold onDataOut
  rw [← hphase]
  split
  · next hp =>
    have hsame := sameButBuf_of_agreeOnObservable h (by simp [hp])
    have hpend : t.pend = s.pend := by obtain ⟨b, rfl⟩ := hsame; rfl
    have hcap : min bytes.length (chunkSize s.pend) ≤ Config.cap :=
      (Nat.min_le_right _ _).trans (Nat.min_le_left _ _)
    dsimp only
    rw [hpend]
    exact agreeOnObservable_of_sameButBuf <| writeChunk_sameButBuf (storeOver_sameButBuf _ bytes hsame) fun k hk =>
      storeOver_memRead_eq hcap (Nat.min_le_left _ _) hs ht hk
  · exact respond_agreeOnObservable _ h
  · exact respond_agreeOnObservable _ h

theorem onSetup_agreeOnObservable (r : Request) {s t : State} (h : agreeOnObservable s t) (hs : Memory.wf s.buf)
    (ht : Memory.wf t.buf) :
    ∃ s' t', onSetup r s = .next s' ∧ onSetup r t = .next t' ∧ agreeOnObservable s' t' := by
  rcases onSetup_cases r with ⟨-, a, ha⟩ | ⟨-, b, e, f, hio⟩
  · have ⟨_, hstatus, _⟩ := h
    exact ⟨_, _, ha s, ha t, hstatus ▸ respond_agreeOnObservable (a s.status) h⟩
  · exact ⟨_, _, hio s, hio t, agreeOnObservable_of_sameButBuf (ioSetup_sameButBuf b e f h hs ht)⟩

theorem deviceReset_agreeOnObservable {s t : State} (h : agreeOnObservable s t) :
    agreeOnObservable s.deviceReset t.deviceReset := by
  obtain ⟨hbus, -, -, -, -, hin⟩ := h
  exact ⟨by simp [State.deviceReset, hbus], rfl, rfl, fun _ => rfl, rfl, hin⟩

/-- Both states answer every input, and agree afterwards. -/
theorem handleInput_agreeOnObservable (e : Input) {s t : State} (h : agreeOnObservable s t) (hs : Memory.wf s.buf)
    (ht : Memory.wf t.buf) :
    ∃ s' t', handleInput e s = .next s' ∧ handleInput e t = .next t' ∧ agreeOnObservable s' t' := by
  cases e with
  | reset => exact ⟨_, _, rfl, rfl, deviceReset_agreeOnObservable h⟩
  | host ev =>
    cases ev with
    | setup r => exact onSetup_agreeOnObservable r h hs ht
    | dataIn => exact ⟨_, _, rfl, rfl, onDataIn_agreeOnObservable h hs ht⟩
    | dataOut bytes => exact ⟨_, _, rfl, rfl, onDataOut_agreeOnObservable bytes h hs ht⟩
    | statusAck => exact ⟨_, _, rfl, rfl, respond_agreeOnObservable .accept h⟩

/-- Both states step, and agree afterwards. -/
theorem step_agreeOnObservable {s t : State} (h : agreeOnObservable s t) (hs : Memory.wf s.buf)
    (ht : Memory.wf t.buf) : ∃ s' t', step s = .next s' ∧ step t = .next t' ∧ agreeOnObservable s' t' := by
  have ⟨hbus, hstatus, hphase, hpend, hresp, hin⟩ := h
  cases hi : s.inputs with
  | nil => exact ⟨s, t, step_of_nil hi, step_of_nil (hin ▸ hi), h⟩
  | cons e rest =>
    rw [step_of_cons hi, step_of_cons (hin ▸ hi)]
    exact handleInput_agreeOnObservable e ⟨hbus, hstatus, hphase, hpend, hresp, rfl⟩ hs ht

/-- Settles O51: a handler reads only bytes of the buffer that it has written in the same chunk, and no field of an
idle `pend`; the canonical form is O42's. -/
theorem oldBufferAndIdlePendAreNeverObserved : Obligations.OldBufferAndIdlePendAreNeverObserved := by
  intro s t h hs ht
  obtain ⟨s', t', hs', ht', hagree⟩ := step_agreeOnObservable h hs ht
  exact ⟨s', t', hs', ht', hagree, stepKeepsBufferCanonical s s' hs hs', stepKeepsBufferCanonical t t' ht ht'⟩

end Sys2Proof.Machine
end

section
/-!
PROOFS for the statements of 20_memory.md: what a host event does to the bus trace (O45, O46, O47, O48), what a sample
reads (O26), and the one response to a host event (O8).
-/

namespace Sys2Proof.Machine

open Sys2Proof.Safety

/-! ### O26: a sample of SDA -/

/-- Settles O26: a sample of a line the block drives changes nothing; else it takes and records one answer. -/
theorem sampleReadsDrivenLowOrBusAnswer : Obligations.SampleReadsDrivenLowOrBusAnswer := by
  intro u
  refine ⟨fun hlow => by simp [Bus.sampleSda, hlow], fun hhigh => ?_⟩
  rw [Bus.sampleSda_released hhigh]
  refine ⟨rfl, by simp, ?_⟩
  unfold Bus.dropSda
  split <;> rfl

/-! ### What the driver does to the bus

Every operation of the driver is made of three acts: a `setLine` call, a sample taken with both lines released, and a
write of `bus_phase`. A fact about the trace of a whole handler is then one induction over its acts. -/

/-- `Reaches k u v`: acts of the driver, at most `k` `setLine` calls among them, take the bus from `u` to `v`. -/
inductive Bus.Reaches : Nat → Bus → Bus → Prop where
  | refl {k : Nat} {u : Bus} : Bus.Reaches k u u
  | setLine {k : Nat} {u v : Bus} (line : Line) (lvl : Level) (rest : Bus.Reaches k (u.setLine line lvl) v) :
      Bus.Reaches (k + 1) u v
  | sample {k : Nat} {u v : Bus} (hsda : u.sdaOut = .high) (hscl : u.sclOut = .high)
      (rest : Bus.Reaches k u.sampleSda.2 v) : Bus.Reaches k u v
  | setBusPhase {k : Nat} {u v : Bus} (p : BusPhase) (rest : Bus.Reaches k { u with busPhase := p } v) :
      Bus.Reaches k u v

theorem Bus.Reaches.mono {j k : Nat} {u v : Bus} (h : Bus.Reaches j u v) (hjk : j ≤ k) : Bus.Reaches k u v := by
  induction h generalizing k with
  | refl => exact .refl
  | setLine line lvl _ ih =>
    obtain ⟨k, rfl⟩ := Nat.exists_eq_succ_of_ne_zero (Nat.ne_zero_of_lt hjk)
    exact .setLine line lvl (ih (Nat.le_of_succ_le_succ hjk))
  | sample hsda hscl _ ih => exact .sample hsda hscl (ih hjk)
  | setBusPhase p _ ih => exact .setBusPhase p (ih hjk)

theorem Bus.Reaches.trans {j k : Nat} {u v w : Bus} (h : Bus.Reaches j u v) (h' : Bus.Reaches k v w) :
    Bus.Reaches (j + k) u w := by
  induction h with
  | refl => exact h'.mono (by omega)
  | setLine line lvl _ ih => exact ((ih h').setLine line lvl).mono (by omega)
  | sample hsda hscl _ ih => exact .sample hsda hscl (ih h')
  | setBusPhase p _ ih => exact .setBusPhase p (ih h')

/-! #### The driver's operations -/

theorem Bus.start_reaches (u : Bus) : Bus.Reaches 2 u u.start :=
  .setLine .sda .low <| .setLine .scl .low <| .setBusPhase .busActive .refl

theorem Bus.repeatedStart_reaches (u : Bus) : Bus.Reaches 4 u u.repeatedStart :=
  .setLine .sda .high <| .setLine .scl .high <| .setLine .sda .low <| .setLine .scl .low <|
    .setBusPhase .busActive .refl

theorem Bus.stop_reaches (u : Bus) : Bus.Reaches 3 u u.stop :=
  .setLine .sda .low <| .setLine .scl .high <| .setLine .sda .high <| .setBusPhase .busIdle .refl

theorem Bus.writeBits_reaches (b : Byte) (n : Nat) (u : Bus) : Bus.Reaches (3 * n) u (Bus.writeBits b n u) := by
  induction n generalizing u with
  | zero => exact .refl
  | succ n ih =>
    exact .setLine .sda (bitLevel (b.getLsbD n)) <| .setLine .scl .high <| .setLine .scl .low <| ih _

theorem Bus.write_reaches (b : Byte) (u : Bus) : Bus.Reaches 27 u (u.write b).2 :=
  (Bus.writeBits_reaches b 8 u).trans (k := 3) <|
    .setLine .sda .high <| .setLine .scl .high <| .sample (by simp) (by simp) <| .setLine .scl .low .refl

/-- The samples of a read are taken with SDA released, which the caller has done (R130). -/
theorem Bus.readBits_reaches (n : Nat) (v : Byte) {u : Bus} (h : u.sdaOut = .high) :
    Bus.Reaches (2 * n) u (Bus.readBits n v u).2 := by
  induction n generalizing v u with
  | zero => exact .refl
  | succ n ih =>
    exact .setLine .scl .high <| .sample (by simpa using h) (by simp) <| .setLine .scl .low <| ih _ (by simpa using h)

theorem Bus.read_reaches (isLast : Bool) (u : Bus) : Bus.Reaches 22 u (u.read isLast).2 :=
  have hready : ((u.setLine .sda .high).setLine .scl .low).sdaOut = .high := by simp
  .setLine .sda .high <| .setLine .scl .low <| (Bus.readBits_reaches 8 0#8 hready).trans (k := 4) <|
    .setLine .sda (readAckLevel isLast) <| .setLine .scl .high <| .setLine .scl .low <| .setLine .sda .high .refl

/-! #### The bridge -/

theorem chunkSize_le_cap (p : Pending) : chunkSize p ≤ Config.cap := Nat.min_le_left _ _

theorem addressPhase_reaches (s : State) : Bus.Reaches 31 s.bus (addressPhase s).2.bus := by
  unfold addressPhase
  dsimp only
  split
  · exact (s.bus.start_reaches.mono (by omega : 2 ≤ 4)).trans (Bus.write_reaches _ _)
  · exact s.bus.repeatedStart_reaches.trans (Bus.write_reaches _ _)

theorem stopIfEnd_reaches (s : State) : Bus.Reaches 3 s.bus (stopIfEnd s).bus := by
  unfold stopIfEnd
  split
  · exact s.bus.stop_reaches
  · exact .refl

theorem readOver_reaches (ks : List (Fin Config.cap)) (s : State) :
    Bus.Reaches (22 * ks.length) s.bus (readOver ks s).bus := by
  induction ks generalizing s with
  | nil => exact .refl
  | cons k ks ih =>
    rw [readOver, List.length_cons, Nat.mul_succ, Nat.add_comm]
    refine Bus.Reaches.trans ?_ (ih _)
    exact Bus.read_reaches _ _

theorem advanceRead_reaches (n : Nat) (s : State) : Bus.Reaches 3 s.bus (advanceRead n s).bus := by
  unfold advanceRead
  dsimp only
  split
  · exact stopIfEnd_reaches { s with pend := { s.pend with done := s.pend.done + BitVec.ofNat 16 n } }
  · exact .refl

theorem readChunk_reaches (s : State) : Bus.Reaches (27 * Config.cap + 3) s.bus (readChunk s).bus := by
  have hcap := chunkSize_le_cap s.pend
  have hlen := indexes_length hcap
  exact ((readOver_reaches (indexes (chunkSize s.pend)) s).trans (advanceRead_reaches _ _)).mono (by omega)

theorem writeOver_reaches (ks : List (Fin Config.cap)) (s : State) :
    Bus.Reaches (27 * ks.length) s.bus (writeOver ks s).2.bus := by
  induction ks generalizing s with
  | nil => exact .refl
  | cons k ks ih =>
    have hbyte : Bus.Reaches 27 s.bus (writeByte k s).2.bus := Bus.write_reaches _ _
    rw [writeOver, List.length_cons, Nat.mul_succ, Nat.add_comm]
    split
    · exact hbyte.trans (ih _)
    · exact hbyte.mono (Nat.le_add_right _ _)

theorem chunkWritten_reaches (s : State) : Bus.Reaches 3 s.bus (chunkWritten s).bus := by
  unfold chunkWritten
  split
  · exact stopIfEnd_reaches s
  · exact .refl

theorem writeChunk_reaches {m : Nat} (hm : m ≤ Config.cap) (s : State) :
    Bus.Reaches (27 * Config.cap + 3) s.bus (writeChunk m s).bus := by
  have hlen := indexes_length hm
  have hbytes := writeOver_reaches (indexes m) s
  unfold writeChunk
  dsimp only
  split
  · exact (hbytes.trans (chunkWritten_reaches _)).mono (by omega)
  · exact (hbytes.trans (Bus.stop_reaches _)).mono (by omega)

theorem addressAcked_reaches (s : State) : Bus.Reaches (27 * Config.cap + 3) s.bus (addressAcked s).bus := by
  unfold addressAcked
  dsimp only
  split
  · exact (stopIfEnd_reaches { s with status := addressStatus true }).mono (by omega)
  · split
    · exact readChunk_reaches { s with status := addressStatus true }
    · exact .refl

/-- The most `setLine` calls in a handler: an address phase, a chunk, a STOP (R55, R258). -/
def handlerSets : Nat := 34 + 27 * Config.cap

theorem ioSetup_reaches (b e : Bool) (f : SetupFields) (s : State) :
    Bus.Reaches handlerSets s.bus (ioSetup b e f s).bus := by
  have haddr : Bus.Reaches 31 s.bus _ := addressPhase_reaches (openTransfer b e f s)
  unfold ioSetup handlerSets
  dsimp only
  split
  · exact (haddr.trans (addressAcked_reaches _)).mono (by omega)
  · exact (haddr.trans (Bus.stop_reaches _)).mono (by omega)

theorem onDataIn_reaches (s : State) : Bus.Reaches handlerSets s.bus (onDataIn s).bus := by
  unfold onDataIn
  split
  · exact (readChunk_reaches s).mono (by unfold handlerSets; omega)
  · exact .refl
  · exact .refl

theorem onDataOut_reaches (bytes : List Byte) (s : State) :
    Bus.Reaches handlerSets s.bus (onDataOut bytes s).bus := by
  unfold onDataOut
  split
  · have hm := (Nat.min_le_right bytes.length _).trans (chunkSize_le_cap s.pend)
    obtain ⟨hbus, -⟩ := storeOver_frame (indexes (min bytes.length (chunkSize s.pend))) bytes s
    have hwrite := writeChunk_reaches hm (storeOver (indexes (min bytes.length (chunkSize s.pend))) bytes s)
    rw [hbus] at hwrite
    exact hwrite.mono (by unfold handlerSets; omega)
  · exact .refl
  · exact .refl

/-- Whatever the host event, its handler is a bounded run of the driver's acts. -/
theorem handleInput_reaches {ev : HostEvent} {s t : State} (h : handleInput (.host ev) s = .next t) :
    Bus.Reaches handlerSets s.bus t.bus := by
  cases ev with
  | setup r =>
    change onSetup r s = .next t at h
    rcases onSetup_cases r with ⟨-, a, ha⟩ | ⟨-, b, e, f, hio⟩
    · rw [ha] at h; cases h; exact .refl
    · rw [hio] at h; cases h; exact ioSetup_reaches b e f s
  | dataIn => cases h; exact onDataIn_reaches s
  | dataOut bytes => cases h; exact onDataOut_reaches bytes s
  | statusAck => cases h; exact .refl

/-- A step that takes a host event is a bounded run of the driver's acts. -/
theorem step_reaches {s t : State} {ev : HostEvent} {rest : List Input} (hin : s.inputs = .host ev :: rest)
    (hstep : step s = .next t) : Bus.Reaches handlerSets s.bus t.bus := by
  rw [step_of_cons hin] at hstep
  exact handleInput_reaches (s := { s with inputs := rest }) hstep

/-! ### O46 and O45: samples only with both lines released, on a trace that only grows -/

/-- The events of a `setLine` call hold no sample, and leave the outputs where the call leaves them. -/
theorem Bus.sampledReleased_setLineEvents (line : Line) (lvl : Level) (u : Bus) (es : List BusEvent) :
    sampledReleased u.sdaOut u.sclOut (u.setLineEvents line lvl ++ es) =
      sampledReleased (u.setLine line lvl).sdaOut (u.setLine line lvl).sclOut es := by
  cases line <;> cases lvl <;> simp [Bus.setLineEvents, sampledReleased]

/-- The driver's acts append to the trace, their samples taken with both lines released. -/
theorem Bus.Reaches.sampledReleased {k : Nat} {u v : Bus} (h : Bus.Reaches k u v) :
    ∃ es, v.trace = u.trace ++ es ∧ sampledReleased u.sdaOut u.sclOut es = true := by
  induction h with
  | refl => exact ⟨[], by simp, rfl⟩
  | @setLine _ u _ line lvl _ ih =>
    obtain ⟨es, htrace, hes⟩ := ih
    refine ⟨u.setLineEvents line lvl ++ es, by rw [htrace, Bus.setLine_trace, List.append_assoc], ?_⟩
    rw [Bus.sampledReleased_setLineEvents, hes]
  | @sample _ u _ hsda hscl _ ih =>
    obtain ⟨es, htrace, hes⟩ := ih
    refine ⟨.sampleSda u.nextSda :: es, by simp [htrace, Bus.sampleSda_released hsda], ?_⟩
    simpa [Safety.sampledReleased, hsda, hscl] using hes
  | setBusPhase _ _ ih => exact ih

/-- Settles O46: each sample of a handler is an act of the driver with both lines released. -/
theorem sdaIsSampledOnlyWhileReleased : Obligations.SdaIsSampledOnlyWhileReleased := by
  intro s t ev rest added hin hstep hadded
  obtain ⟨es, htrace, hes⟩ := (step_reaches hin hstep).sampledReleased
  rwa [List.append_cancel_left (hadded.symm.trans htrace)]

/-- Settles O45: every act of the driver appends to the trace or leaves it. -/
theorem traceOnlyGrows : Obligations.TraceOnlyGrows := by
  intro s t ev rest hin hstep
  obtain ⟨es, htrace, -⟩ := (step_reaches hin hstep).sampledReleased
  exact ⟨es, htrace⟩

/-! ### O48: a handler is bounded -/

@[simp] theorem Bus.setsOf_setLineEvents (line : Line) (lvl : Level) (u : Bus) :
    setsOf (u.setLineEvents line lvl) = [(line, lvl)] := by
  cases line <;> cases lvl <;> rfl

/-- The longest wait in one `setLine` call: the delay pair and one stretch timeout (R55, R261). -/
def Bus.setLineWait (u : Bus) : Nat := u.delayBefore + u.delayAfter + Config.stretchTimeoutUs

theorem Bus.waitBound_setLineEvents (line : Line) (lvl : Level) (u : Bus) :
    waitBound (u.setLineEvents line lvl) ≤ u.setLineWait := by
  cases line <;> cases lvl <;> simp [Bus.setLineEvents, waitBound, Bus.setLineWait]
  case scl.high => omega

/-- At most `k` `setLine` calls make at most `k` `Set` events, and wait at most `k` times as long as one. -/
theorem Bus.Reaches.bounded {k : Nat} {u v : Bus} (h : Bus.Reaches k u v) :
    ∃ es, v.trace = u.trace ++ es ∧ (setsOf es).length ≤ k ∧ waitBound es ≤ k * u.setLineWait := by
  induction h with
  | refl => exact ⟨[], by simp, by simp [setsOf], by simp [waitBound]⟩
  | @setLine k u _ line lvl _ ih =>
    obtain ⟨es, htrace, hsets, hwait⟩ := ih
    have hcall := Bus.waitBound_setLineEvents line lvl u
    have hpair : (u.setLine line lvl).setLineWait = u.setLineWait := by simp [Bus.setLineWait]
    refine ⟨u.setLineEvents line lvl ++ es, by rw [htrace, Bus.setLine_trace, List.append_assoc], ?_, ?_⟩
    · simp only [setsOf_append, Bus.setsOf_setLineEvents, List.length_append, List.length_singleton]
      omega
    · rw [waitBound_append, Nat.succ_mul]
      rw [hpair] at hwait
      omega
  | @sample _ u _ hsda _ _ ih =>
    obtain ⟨es, htrace, hsets, hwait⟩ := ih
    refine ⟨.sampleSda u.nextSda :: es, by simp [htrace, Bus.sampleSda_released hsda], hsets, ?_⟩
    simpa [waitBound, Bus.setLineWait] using hwait
  | setBusPhase _ _ ih => exact ih

/-- Settles O48: a handler is at most `34 + 27 * CAP` `setLine` calls, each with one bounded wait. -/
theorem everyHandlerIsBounded : Obligations.EveryHandlerIsBounded := by
  intro s t ev rest added hin hstep hadded
  obtain ⟨es, htrace, hbounds⟩ := (step_reaches hin hstep).bounded
  rwa [List.append_cancel_left (hadded.symm.trans htrace)]

/-! ### O47: every sample is the BUS agent's next answer -/

/-- The BUS agent is in the same state in both: its given answers, and how many it has drawn free. -/
def Bus.SameAgent (u v : Bus) : Prop := u.busAnswers = v.busAnswers ∧ u.busDrawn = v.busDrawn

theorem Bus.SameAgent.nextSda {u v : Bus} (h : Bus.SameAgent u v) : u.nextSda = v.nextSda := by
  obtain ⟨hans, hdrawn⟩ := h
  unfold Bus.nextSda
  rw [hans, hdrawn]

theorem Bus.SameAgent.dropSda {u v : Bus} (h : Bus.SameAgent u v) : Bus.SameAgent u.dropSda v.dropSda := by
  obtain ⟨hans, hdrawn⟩ := h
  unfold Bus.dropSda
  rw [hans]
  split
  · exact ⟨rfl, congrArg (· + 1) hdrawn⟩
  · exact ⟨rfl, hdrawn⟩

theorem Bus.SameAgent.nextAnswers {u v : Bus} (h : Bus.SameAgent u v) (n : Nat) :
    nextAnswers n u = nextAnswers n v := by
  induction n generalizing u v with
  | zero => rfl
  | succ n ih => rw [Safety.nextAnswers, Safety.nextAnswers, h.nextSda, ih h.dropSda]

theorem Bus.SameAgent.dropAnswers {u v : Bus} (h : Bus.SameAgent u v) (n : Nat) :
    Bus.SameAgent (dropAnswers n u) (dropAnswers n v) := by
  induction n generalizing u v with
  | zero => exact h
  | succ n ih => exact ih h.dropSda

/-- The samples of the driver's acts are the BUS agent's next answers, and no other act takes one. -/
theorem Bus.Reaches.samples {k : Nat} {u v : Bus} (h : Bus.Reaches k u v) :
    ∃ n, samplesOf v.trace = samplesOf u.trace ++ nextAnswers n u ∧ Bus.SameAgent v (dropAnswers n u) := by
  induction h with
  | refl => exact ⟨0, by simp [nextAnswers], rfl, rfl⟩
  | @setLine _ u _ line lvl _ ih =>
    obtain ⟨n, hsamples, hans, hdrawn⟩ := ih
    have hagent : Bus.SameAgent (u.setLine line lvl) u := ⟨by simp, by simp⟩
    have ⟨hans', hdrawn'⟩ := hagent.dropAnswers n
    refine ⟨n, ?_, hans.trans hans', hdrawn.trans hdrawn'⟩
    rw [hsamples, Bus.setLine_samplesOf, hagent.nextAnswers]
  | @sample _ u _ hsda _ _ ih =>
    obtain ⟨n, hsamples, hans, hdrawn⟩ := ih
    have hagent : Bus.SameAgent u.sampleSda.2 u.dropSda := by rw [Bus.sampleSda_released hsda]; exact ⟨rfl, rfl⟩
    have ⟨hans', hdrawn'⟩ := hagent.dropAnswers n
    refine ⟨n + 1, ?_, hans.trans hans', hdrawn.trans hdrawn'⟩
    rw [hsamples, hagent.nextAnswers, Bus.sampleSda_released hsda]
    simp [samplesOf, nextAnswers]
  | @setBusPhase _ u _ p _ ih =>
    obtain ⟨n, hsamples, hans, hdrawn⟩ := ih
    have hagent : Bus.SameAgent { u with busPhase := p } u := ⟨rfl, rfl⟩
    have ⟨hans', hdrawn'⟩ := hagent.dropAnswers n
    exact ⟨n, hagent.nextAnswers n ▸ hsamples, hans.trans hans', hdrawn.trans hdrawn'⟩

/-- Settles O47: of the driver's acts only a sample takes an answer, and it records that answer. -/
theorem everySampleIsTheNextBusAnswer : Obligations.EverySampleIsTheNextBusAnswer := by
  intro s t ev rest hin hstep
  exact (step_reaches hin hstep).samples

/-! ### O8: one response to every host event -/

/-- `t` is `s` with exactly one response more, within R53's bounds, and no further input taken. -/
def RespondsOnce (s t : State) : Prop :=
  ∃ r, t.responses = s.responses ++ [r] ∧ responseInBounds r ∧ t.inputs = s.inputs

/-- A handler that reaches its `respond` without another response or input answers once. -/
theorem respond_respondsOnce {s t : State} {r : Response} (hresp : t.responses = s.responses)
    (hin : t.inputs = s.inputs) (hr : responseInBounds r) : RespondsOnce s (t.respond r) :=
  ⟨r, by simp [hresp], hr, by simp [hin]⟩

/-- What a handler does before its last part leaves the responses and the inputs. -/
theorem RespondsOnce.of_frame {s s' t : State} (h : RespondsOnce s' t) (hresp : s'.responses = s.responses)
    (hin : s'.inputs = s.inputs) : RespondsOnce s t := by
  obtain ⟨r, ht, hr, htin⟩ := h
  exact ⟨r, by rw [ht, hresp], hr, by rw [htin, hin]⟩

/-- A transfer with bytes left asks for at least one. -/
theorem expect_chunkSize_inBounds {p : Pending} (h : p.done.toNat < p.len.toNat) :
    responseInBounds (.expect (chunkSize p)) := by
  refine ⟨?_, chunkSize_le_cap p⟩
  simp only [chunkSize, Config.cap]
  omega

@[simp] theorem stopIfEnd_responses (s : State) : (stopIfEnd s).responses = s.responses := by
  obtain ⟨-, -, -, -, hresp, -⟩ := stopIfEnd_frame s
  exact hresp

@[simp] theorem stopIfEnd_inputs (s : State) : (stopIfEnd s).inputs = s.inputs := by
  obtain ⟨-, -, -, -, -, hin⟩ := stopIfEnd_frame s
  exact hin

@[simp] theorem advanceRead_responses (n : Nat) (s : State) : (advanceRead n s).responses = s.responses := by
  unfold advanceRead
  dsimp only
  split <;> simp

@[simp] theorem advanceRead_inputs (n : Nat) (s : State) : (advanceRead n s).inputs = s.inputs := by
  unfold advanceRead
  dsimp only
  split <;> simp

theorem readChunk_respondsOnce (s : State) : RespondsOnce s (readChunk s) := by
  obtain ⟨-, -, -, hresp, hin⟩ := readOver_frame (indexes (chunkSize s.pend)) s
  refine respond_respondsOnce (by simp [hresp]) (by simp [hin]) ?_
  simp [responseInBounds, indexes_length (chunkSize_le_cap s.pend), chunkSize_le_cap]

/-- A chunk within what is left of the transfer ends it, or leaves bytes to ask for. -/
theorem writeChunk_respondsOnce {m : Nat} {s : State} (hm : m ≤ chunkSize s.pend)
    (hleft : s.pend.done.toNat < s.pend.len.toNat) : RespondsOnce s (writeChunk m s) := by
  obtain ⟨-, -, -, hresp, hin⟩ := writeOver_frame (indexes m) s
  unfold writeChunk
  dsimp only
  split
  · refine RespondsOnce.of_frame ?_ hresp hin
    unfold chunkWritten
    split
    · exact respond_respondsOnce (by simp) (by simp) trivial
    · next hdone =>
      refine respond_respondsOnce rfl rfl (expect_chunkSize_inBounds ?_)
      obtain ⟨j, hj, hpend⟩ := writeOver_pend (indexes m) s
      rw [indexes_length (hm.trans (chunkSize_le_cap _))] at hj
      rw [hpend] at hdone ⊢
      have hsize : chunkSize s.pend ≤ s.pend.len.toNat - s.pend.done.toNat := Nat.min_le_right _ _
      dsimp only at hdone ⊢
      bv_omega
  · exact respond_respondsOnce hresp hin trivial

theorem addressAcked_respondsOnce {s : State} (hdone : s.pend.done = 0#16) : RespondsOnce s (addressAcked s) := by
  unfold addressAcked
  dsimp only
  split
  · exact respond_respondsOnce (by simp) (by simp) trivial
  · next hlen =>
    split
    · exact (readChunk_respondsOnce _).of_frame rfl rfl
    · exact respond_respondsOnce rfl rfl (expect_chunkSize_inBounds (by bv_omega))

theorem ioSetup_respondsOnce (b e : Bool) (f : SetupFields) (s : State) : RespondsOnce s (ioSetup b e f s) := by
  unfold ioSetup
  dsimp only
  split
  · exact (addressAcked_respondsOnce rfl).of_frame rfl rfl
  · exact respond_respondsOnce rfl rfl trivial

/-- A reply cut to the length asked for is no longer than the reply (R152). -/
theorem cutReply_inBounds (length : Half) {bytes : List Byte} (h : bytes.length ≤ Config.cap) :
    responseInBounds (.reply (cutReply length bytes)) :=
  (List.length_take_le' _ _).trans h

/-- Every instruction answers a next state with one response. -/
theorem exec_respondsOnce (i : Instr) (s : State) : ∃ t, exec i s = .next t ∧ RespondsOnce s t := by
  cases i with
  | echo f => exact ⟨_, rfl, respond_respondsOnce rfl rfl (cutReply_inBounds _ (by simp [replyHalf, Config.cap]))⟩
  | getCapabilities f => exact ⟨_, rfl, respond_respondsOnce rfl rfl (cutReply_inBounds _ (by decide))⟩
  | setClockPeriod f => exact ⟨_, rfl, respond_respondsOnce rfl rfl trivial⟩
  | getStatus f => exact ⟨_, rfl, respond_respondsOnce rfl rfl (cutReply_inBounds _ (by simp [Config.cap]))⟩
  | i2cIo f => exact ⟨_, rfl, ioSetup_respondsOnce false false f s⟩
  | i2cIoBegin f => exact ⟨_, rfl, ioSetup_respondsOnce true false f s⟩
  | i2cIoEnd f => exact ⟨_, rfl, ioSetup_respondsOnce false true f s⟩
  | i2cIoBeginEnd f => exact ⟨_, rfl, ioSetup_respondsOnce true true f s⟩

theorem onSetup_respondsOnce (r : Request) (s : State) : ∃ t, onSetup r s = .next t ∧ RespondsOnce s t := by
  unfold onSetup
  split
  · exact exec_respondsOnce _ s
  · exact ⟨_, rfl, respond_respondsOnce rfl rfl trivial⟩

theorem onDataIn_respondsOnce (s : State) : RespondsOnce s (onDataIn s) := by
  unfold onDataIn
  split
  · exact readChunk_respondsOnce s
  · exact respond_respondsOnce rfl rfl trivial
  · exact respond_respondsOnce rfl rfl trivial

/-- A data stage that is open has bytes left (R252), so what it asks for is within R53's bounds. -/
theorem onDataOut_respondsOnce (bytes : List Byte) {s : State} (h : betweenEvents s) :
    RespondsOnce s (onDataOut bytes s) := by
  obtain ⟨-, -, hopen, -⟩ := h
  unfold onDataOut
  split
  · next hphase =>
    obtain ⟨-, hleft⟩ := hopen (by simp [hphase])
    obtain ⟨-, -, -, hpend, hresp, hin⟩ :=
      storeOver_frame (indexes (min bytes.length (chunkSize s.pend))) bytes s
    refine RespondsOnce.of_frame (writeChunk_respondsOnce ?_ ?_) hresp hin
    · rw [hpend]
      exact Nat.min_le_right _ _
    · rwa [hpend]
  · exact respond_respondsOnce rfl rfl trivial
  · exact respond_respondsOnce rfl rfl trivial

theorem handleInput_respondsOnce (ev : HostEvent) {s : State} (h : betweenEvents s) :
    ∃ t, handleInput (.host ev) s = .next t ∧ RespondsOnce s t := by
  cases ev with
  | setup r => exact onSetup_respondsOnce r s
  | dataIn => exact ⟨_, rfl, onDataIn_respondsOnce s⟩
  | dataOut bytes => exact ⟨_, rfl, onDataOut_respondsOnce bytes h⟩
  | statusAck => exact ⟨_, rfl, respond_respondsOnce rfl rfl trivial⟩

/-- Settles O8: every handler ends in one `respond`, and an open data stage has bytes left to ask for. -/
theorem everyHostEventGetsOneResponse : Obligations.EveryHostEventGetsOneResponse := by
  intro s ev rest hbetween hin
  rw [step_of_cons hin]
  obtain ⟨t, ht, r, hresp, hr, htin⟩ := handleInput_respondsOnce ev (s := { s with inputs := rest }) hbetween
  exact ⟨t, r, ht, hresp, hr, htin⟩

end Sys2Proof.Machine
end

section
/-!
PROOFS for the statements of 30_encoding.md about the setup packet and its operands: decoder and encoder (O1, O2), the
selector map (O3), the spec's packets (O4), the address byte (O5) and the assembler's requests (O6).
-/

namespace Sys2Proof.Machine

open Sys2Proof.Safety

/-! ### The packet and the request record -/

@[simp] theorem Half.hi_append_lo (v : Half) : Half.hi v ++ Half.lo v = v :=
  BitVec.extractLsb'_append_extractLsb' (w := 8) (len := 8)

@[simp] theorem Half.lo_append (hi lo : Byte) : Half.lo (hi ++ lo) = lo :=
  BitVec.extractLsb'_append_eq_right

@[simp] theorem Half.hi_append (hi lo : Byte) : Half.hi (hi ++ lo) = hi :=
  BitVec.extractLsb'_append_eq_left

/-- R70: the packet of a record reads back as the record. -/
theorem packetRequest_requestPacket (r : Request) : packetRequest (requestPacket r) = .ok r := by
  simp [requestPacket, packetRequest]

/-- R70: the packet of the record that eight bytes are read as is those bytes. -/
theorem requestPacket_of_packetRequest {bytes : List Byte} {r : Request} (h : packetRequest bytes = .ok r) :
    requestPacket r = bytes := by
  unfold packetRequest at h
  split at h
  · cases h
    simp [requestPacket]
  · cases h

/-! ### The record and the instruction -/

/-- R72: the selector map takes the record of an instruction back to it. -/
theorem decodeRequest_request (i : Instr) : decodeRequest i.request = .ok i := by
  cases i with
  | echo f => rfl
  | getCapabilities f => rfl
  | setClockPeriod f => rfl
  | getStatus f => rfl
  | i2cIo f => rfl
  | i2cIoBegin f => rfl
  | i2cIoEnd f => rfl
  | i2cIoBeginEnd f => rfl

/-- The decoded instruction carries the record's other four fields unchanged. -/
theorem decodeRequest_fields {r : Request} {i : Instr} (h : decodeRequest r = .ok i) : i.fields = r.fields := by
  unfold decodeRequest at h
  split_ifs at h <;> cases h <;> rfl

/-- A record decodes to no instruction but the one it is the record of. -/
theorem request_of_decodeRequest {r : Request} {i : Instr} (h : decodeRequest r = .ok i) : i.request = r := by
  simp only [Instr.request, decodeRequest_fields h, ← decodeRequest_sel h, Request.fields]

/-- The only error of the selector map names the selector. -/
theorem decodeRequest_error_eq {r : Request} {e : DecodeError} (h : decodeRequest r = .error e) :
    e = .unsupportedRequest r.sel := by
  unfold decodeRequest at h
  split_ifs at h
  cases h
  rfl

/-! ### O1, O2: decoder and encoder are inverse -/

/-- Settles O1: the packet reads back as the instruction's record, and the record decodes to the instruction. -/
theorem decodeOfEncodeIsIdentity : Obligations.DecodeOfEncodeIsIdentity := by
  intro i
  rw [decode, encode, packetRequest_requestPacket]
  exact decodeRequest_request i

/-- Settles O2: the bytes determine the record, and the record the instruction. -/
theorem encodeOfDecodeIsIdentity : Obligations.EncodeOfDecodeIsIdentity := by
  intro bytes i h
  unfold decode at h
  cases hp : packetRequest bytes with
  | error e => rw [hp] at h; cases h
  | ok r =>
    rw [hp] at h
    rw [encode, request_of_decodeRequest h, requestPacket_of_packetRequest hp]

/-! ### O3, O4: the selector map and the spec's packets -/

/-- Settles O3: a decoded record's selector is its instruction's, and the decoder refuses only from 8 on. -/
theorem selectorMapIsTotal : Obligations.SelectorMapIsTotal := by
  intro r
  cases hd : decodeRequest r with
  | error e =>
    obtain ⟨n, hn⟩ := Nat.exists_eq_add_of_le' (decodeRequest_error hd)
    rw [decodeRequest_error_eq hd, hn]
    rfl
  | ok i =>
    rw [← request_of_decodeRequest hd]
    cases i with
    | echo f => rfl
    | getCapabilities f => rfl
    | setClockPeriod f => rfl
    | getStatus f => rfl
    | i2cIo f => rfl
    | i2cIoBegin f => rfl
    | i2cIoEnd f => rfl
    | i2cIoBeginEnd f => rfl

/-- Settles O4: the model evaluates each packet of section E to what the spec gives. -/
theorem specPacketsDecode : Obligations.SpecPacketsDecode :=
  ⟨rfl, rfl, rfl, rfl, rfl, rfl, rfl⟩

/-! ### O5: the address byte -/

/-- R75: the direction on the wire is bit 0 of the value. -/
theorem dirBit_dirOperand (f : SetupFields) : dirBit (dirOperand f) = BitVec.ofBool (f.value.getLsbD 0) := by
  unfold dirOperand
  cases f.value.getLsbD 0 <;> rfl

/-- R78: the address byte is the address with the direction put below it. -/
theorem addressByte_eq_concat (f : SetupFields) :
    addressByte (addrOperand f) (dirOperand f) = (addrOperand f).concat (f.value.getLsbD 0) := by
  rw [addressByte, dirBit_dirOperand, BitVec.append_ofBool]

theorem addrOperand_toNat (f : SetupFields) : (addrOperand f).toNat = f.index.toNat % 128 := by
  simp [addrOperand]

theorem getLsbD_zero_toNat (v : Half) : (v.getLsbD 0).toNat = v.toNat % 2 := by
  rw [BitVec.getLsbD, Nat.toNat_testBit, Nat.pow_zero, Nat.div_one]

/-- Settles O5: the address byte is the 7 address bits with the direction bit put below them. -/
theorem addressByteIsAddressThenDirection : Obligations.AddressByteIsAddressThenDirection := by
  intro f
  refine ⟨?_, BitVec.extractLsb'_append_eq_left, ?_⟩
  · rw [addressByte_eq_concat, BitVec.toNat_concat, addrOperand_toNat, getLsbD_zero_toNat]
    omega
  · rw [addressByte_eq_concat, BitVec.getLsbD_concat_zero]

/-! ### O6: the assembler's requests -/

/-- R71: both request types say a vendor request to the interface, and bit 7 is set for a read alone. -/
theorem reqTypeOf_fields (d : Direction) :
    (reqTypeOf d).extractLsb' 5 2 = 2#2 ∧ (reqTypeOf d).extractLsb' 0 5 = 1#5 ∧
      (reqTypeOf d).getLsbD 7 = (dirValue d).getLsbD 0 := by
  cases d with
  | read => decide
  | write => decide

/-- A request with one of R71's types keeps H5, and keeps H4 when the type's direction is what the request wants. -/
theorem wf_of_reqTypeOf {i : Instr} {d : Direction} (htype : i.fields.reqType = reqTypeOf d)
    (hdir : i.wantsIn = (dirValue d).getLsbD 0) : i.wf = true := by
  obtain ⟨hvendor, hinterface, hin⟩ := reqTypeOf_fields d
  simpa [Instr.wf, SetupFields.isVendor, SetupFields.toInterface, Instr.directionMatches, htype, hvendor, hinterface,
    hdir] using hin

/-- Settles O6: each line's selector decodes, and its request type is R71's for the direction it wants. -/
theorem assembledRequestsAreWellFormed : Obligations.AssembledRequestsAreWellFormed := by
  intro l
  cases l with
  | echo v => exact ⟨_, rfl, wf_of_reqTypeOf (d := .read) rfl rfl⟩
  | getCapabilities => exact ⟨_, rfl, wf_of_reqTypeOf (d := .read) rfl rfl⟩
  | setClockPeriod v => exact ⟨_, rfl, wf_of_reqTypeOf (d := .write) rfl rfl⟩
  | getStatus => exact ⟨_, rfl, wf_of_reqTypeOf (d := .read) rfl rfl⟩
  | io b e d a n data =>
    cases b with
    | false => cases e <;> exact ⟨_, rfl, wf_of_reqTypeOf (d := d) rfl rfl⟩
    | true => cases e <;> exact ⟨_, rfl, wf_of_reqTypeOf (d := d) rfl rfl⟩

end Sys2Proof.Machine
end

section
/-!
PROOFS for the statements of 30_encoding.md about what a request does: the START and STOP conditions of a setup (O49)
and of a data stage (O50), and the host's run of PROBE (O53).
-/

namespace Sys2Proof.Machine

open Sys2Proof.Safety

/-! ### The bus conditions of the driver's acts

A condition depends on the lines' levels, so a run of the driver is described by the conditions it makes together with
the levels it leaves: whatever is appended next is read from those. -/

/-- `Makes cs u v`: the driver went from `u` to `v` by appending events that make the conditions `cs` (R11). -/
def Bus.Makes (cs : List Condition) (u v : Bus) : Prop :=
  ∃ es, v.trace = u.trace ++ es ∧
    ∀ next, conditions u.sdaOut u.sclOut (es ++ next) = cs ++ conditions v.sdaOut v.sclOut next

theorem Bus.Makes.refl (u : Bus) : Bus.Makes [] u u :=
  ⟨[], by simp, fun _ => rfl⟩

theorem Bus.Makes.trans {cs ds : List Condition} {u v w : Bus} (h : Bus.Makes cs u v) (h' : Bus.Makes ds v w) :
    Bus.Makes (cs ++ ds) u w := by
  obtain ⟨es, htrace, hes⟩ := h
  obtain ⟨es', htrace', hes'⟩ := h'
  refine ⟨es ++ es', by rw [htrace', htrace, List.append_assoc], fun next => ?_⟩
  rw [List.append_assoc, hes, hes', List.append_assoc]

theorem Bus.Makes.trans_nil {cs : List Condition} {u v w : Bus} (h : Bus.Makes cs u v) (h' : Bus.Makes [] v w) :
    Bus.Makes cs u w := by
  simpa only [List.append_nil] using h.trans h'

/-- The events between two given states make those conditions. -/
theorem Bus.Makes.conditions_eq {cs : List Condition} {u v : Bus} {added : List BusEvent} (h : Bus.Makes cs u v)
    (hadded : v.trace = u.trace ++ added) : conditions u.sdaOut u.sclOut added = cs := by
  obtain ⟨es, htrace, hes⟩ := h
  rw [List.append_cancel_left (hadded.symm.trans htrace)]
  simpa [conditions] using hes []

/-- Only a change of SDA makes a condition, by the level SCL then has. -/
theorem Bus.setLine_sda_makes (lvl : Level) (u : Bus) :
    Bus.Makes (sdaCondition u.sdaOut u.sclOut lvl) u (u.setLine .sda lvl) :=
  ⟨_, Bus.setLine_trace .sda lvl u, fun next => by simp [Bus.setLineEvents, conditions]⟩

theorem Bus.setLine_scl_makes (lvl : Level) (u : Bus) : Bus.Makes [] u (u.setLine .scl lvl) := by
  refine ⟨_, Bus.setLine_trace .scl lvl u, fun next => ?_⟩
  cases lvl <;> simp [Bus.setLineEvents, conditions]

theorem Bus.sampleSda_makes (u : Bus) : Bus.Makes [] u u.sampleSda.2 := by
  unfold Bus.sampleSda
  split
  · exact .refl u
  · exact ⟨[.sampleSda u.nextSda], by simp, fun next => by simp [conditions]⟩

theorem Bus.Makes.setBusPhase {cs : List Condition} {u v : Bus} (p : BusPhase) (h : Bus.Makes cs u v) :
    Bus.Makes cs u { v with busPhase := p } := h

/-! ### START, repeated START and STOP -/

theorem Bus.start_makes (u : Bus) : Bus.Makes (sdaCondition u.sdaOut u.sclOut .low) u u.start :=
  ((u.setLine_sda_makes .low).trans_nil (Bus.setLine_scl_makes .low _)).setBusPhase .busActive

/-- R122: releasing SDA may make a condition where SCL is high; the START that follows is made from any state. -/
theorem Bus.repeatedStart_makes (u : Bus) :
    Bus.Makes (sdaCondition u.sdaOut u.sclOut .high ++ [.start]) u u.repeatedStart := by
  have hrelease := (u.setLine_sda_makes .high).trans_nil (Bus.setLine_scl_makes .high _)
  have hstart := Bus.start_makes ((u.setLine .sda .high).setLine .scl .high)
  rw [Bus.setLine_scl_sdaOut, Bus.setLine_sda_sdaOut, Bus.setLine_scl_sclOut] at hstart
  exact hrelease.trans hstart

/-- R124: driving SDA may make a condition where SCL is high; the STOP that follows is made from any state. -/
theorem Bus.stop_makes (u : Bus) : Bus.Makes (sdaCondition u.sdaOut u.sclOut .low ++ [.stop]) u u.stop := by
  have hdrive := (u.setLine_sda_makes .low).trans_nil (Bus.setLine_scl_makes .high _)
  have hrelease := ((u.setLine .sda .low).setLine .scl .high).setLine_sda_makes .high
  rw [Bus.setLine_scl_sdaOut, Bus.setLine_sda_sdaOut, Bus.setLine_scl_sclOut] at hrelease
  exact (hdrive.trans hrelease).setBusPhase .busIdle

/-! ### The bits of a byte

Within a transaction SCL is low between the driver's acts, and SDA moves only then. -/

/-- Inside a transaction: `bus_phase` says so and SCL is held low. -/
def Bus.Active (u : Bus) : Prop := u.sclOut = .low ∧ u.busPhase = .busActive

/-- From inside a transaction the driver makes no condition on the way to `v`, and stays inside. -/
def Bus.Quiet (u v : Bus) : Prop := u.Active → Bus.Makes [] u v ∧ v.Active

theorem Bus.Quiet.refl (u : Bus) : Bus.Quiet u u := fun h => ⟨.refl u, h⟩

theorem Bus.Quiet.trans {u v w : Bus} (h : Bus.Quiet u v) (h' : Bus.Quiet v w) : Bus.Quiet u w := fun hu =>
  have ⟨huv, hv⟩ := h hu
  have ⟨hvw, hw⟩ := h' hv
  ⟨huv.trans hvw, hw⟩

theorem Bus.setLine_sda_quiet (lvl : Level) (u : Bus) : Bus.Quiet u (u.setLine .sda lvl) := by
  intro ⟨hscl, hphase⟩
  have hmakes := u.setLine_sda_makes lvl
  rw [hscl, sdaCondition] at hmakes
  exact ⟨hmakes, by simpa using hscl, by simpa using hphase⟩

theorem Bus.setLine_scl_low_quiet (u : Bus) : Bus.Quiet u (u.setLine .scl .low) := fun ⟨_, hphase⟩ =>
  ⟨u.setLine_scl_makes .low, by simp, by simpa using hphase⟩

theorem Bus.clockPulse_quiet (u : Bus) : Bus.Quiet u u.clockPulse := fun ⟨_, hphase⟩ =>
  ⟨(u.setLine_scl_makes .high).trans ((u.setLine .scl .high).setLine_scl_makes .low), by simp [Bus.clockPulse],
    by simpa [Bus.clockPulse] using hphase⟩

/-- A clock pulse with a sample of SDA while SCL is high. -/
theorem Bus.sampledPulse_quiet (u : Bus) :
    Bus.Quiet u ((u.setLine .scl .high).sampleSda.2.setLine .scl .low) := fun ⟨_, hphase⟩ =>
  ⟨((u.setLine_scl_makes .high).trans (Bus.sampleSda_makes _)).trans (Bus.setLine_scl_makes .low _), by simp,
    by simpa using hphase⟩

theorem Bus.writeBits_quiet (b : Byte) (n : Nat) (u : Bus) : Bus.Quiet u (Bus.writeBits b n u) := by
  induction n generalizing u with
  | zero => exact .refl u
  | succ n ih => exact ((u.setLine_sda_quiet _).trans (Bus.clockPulse_quiet _)).trans (ih _)

theorem Bus.write_quiet (b : Byte) (u : Bus) : Bus.Quiet u (u.write b).2 :=
  ((Bus.writeBits_quiet b 8 u).trans (Bus.setLine_sda_quiet .high _)).trans (Bus.sampledPulse_quiet _)

theorem Bus.readBits_quiet (n : Nat) (v : Byte) (u : Bus) : Bus.Quiet u (Bus.readBits n v u).2 := by
  induction n generalizing v u with
  | zero => exact .refl u
  | succ n ih => exact u.sampledPulse_quiet.trans (ih _ _)

theorem Bus.read_quiet (isLast : Bool) (u : Bus) : Bus.Quiet u (u.read isLast).2 :=
  have hbits := ((u.setLine_sda_quiet .high).trans (Bus.setLine_scl_low_quiet _)).trans (Bus.readBits_quiet 8 0#8 _)
  ((hbits.trans (Bus.setLine_sda_quiet (readAckLevel isLast) _)).trans (Bus.clockPulse_quiet _)).trans
    (Bus.setLine_sda_quiet .high _)

/-! ### The chunks of a data stage -/

/-- The conditions of a handler that ends with the bus as `v` has it: a STOP if it is idle (R188). -/
def Bus.closing (v : Bus) : List Condition := if v.busPhase = .busIdle then [.stop] else []

/-- From inside a transaction the driver makes no condition on the way to `v` but the STOP that releases the bus. -/
def Bus.Closes (u v : Bus) : Prop := u.Active → Bus.Makes v.closing u v

theorem Bus.Quiet.closes {u v : Bus} (h : Bus.Quiet u v) : Bus.Closes u v := by
  intro hu
  obtain ⟨hmakes, -, hphase⟩ := h hu
  simpa [Bus.closing, hphase] using hmakes

theorem Bus.Quiet.trans_closes {u v w : Bus} (h : Bus.Quiet u v) (h' : Bus.Closes v w) : Bus.Closes u w := by
  intro hu
  obtain ⟨hmakes, hv⟩ := h hu
  exact hmakes.trans (h' hv)

theorem Bus.stop_closes (u : Bus) : Bus.Closes u u.stop := by
  intro ⟨hscl, _⟩
  have hmakes := u.stop_makes
  rw [hscl] at hmakes
  exact hmakes

theorem stopIfEnd_closes (s : State) : Bus.Closes s.bus (stopIfEnd s).bus := by
  unfold stopIfEnd
  split
  · exact s.bus.stop_closes
  · exact (Bus.Quiet.refl _).closes

theorem readOver_quiet (ks : List (Fin Config.cap)) (s : State) : Bus.Quiet s.bus (readOver ks s).bus := by
  induction ks generalizing s with
  | nil => exact .refl _
  | cons k ks ih =>
    rw [readOver]
    refine Bus.Quiet.trans ?_ (ih _)
    exact Bus.read_quiet _ _

theorem advanceRead_closes (n : Nat) (s : State) : Bus.Closes s.bus (advanceRead n s).bus := by
  unfold advanceRead
  dsimp only
  split
  · exact stopIfEnd_closes { s with pend := { s.pend with done := s.pend.done + BitVec.ofNat 16 n } }
  · exact (Bus.Quiet.refl _).closes

theorem readChunk_closes (s : State) : Bus.Closes s.bus (readChunk s).bus :=
  (readOver_quiet _ s).trans_closes (advanceRead_closes _ _)

theorem writeOver_quiet (ks : List (Fin Config.cap)) (s : State) : Bus.Quiet s.bus (writeOver ks s).2.bus := by
  induction ks generalizing s with
  | nil => exact .refl _
  | cons k ks ih =>
    have hbyte : Bus.Quiet s.bus (writeByte k s).2.bus := Bus.write_quiet _ _
    rw [writeOver]
    split
    · exact hbyte.trans (ih _)
    · exact hbyte

theorem chunkWritten_closes (s : State) : Bus.Closes s.bus (chunkWritten s).bus := by
  unfold chunkWritten
  split
  · exact stopIfEnd_closes s
  · exact (Bus.Quiet.refl _).closes

theorem writeChunk_closes (m : Nat) (s : State) : Bus.Closes s.bus (writeChunk m s).bus := by
  have hbytes := writeOver_quiet (indexes m) s
  unfold writeChunk
  dsimp only
  split
  · exact hbytes.trans_closes (chunkWritten_closes _)
  · exact hbytes.trans_closes (Bus.stop_closes _)

/-! ### O50: a data stage -/

theorem onDataIn_closes (s : State) : Bus.Closes s.bus (onDataIn s).bus := by
  unfold onDataIn
  split
  · exact readChunk_closes s
  · exact (Bus.Quiet.refl _).closes
  · exact (Bus.Quiet.refl _).closes

theorem onDataOut_closes (bytes : List Byte) (s : State) : Bus.Closes s.bus (onDataOut bytes s).bus := by
  unfold onDataOut
  split
  · obtain ⟨hbus, -⟩ := storeOver_frame (indexes (min bytes.length (chunkSize s.pend))) bytes s
    have hwrite := writeChunk_closes (min bytes.length (chunkSize s.pend))
      (storeOver (indexes (min bytes.length (chunkSize s.pend))) bytes s)
    rwa [hbus] at hwrite
  · exact (Bus.Quiet.refl _).closes
  · exact (Bus.Quiet.refl _).closes

/-- Settles O50: SDA moves only while SCL is low, but for the STOP of the last chunk or of a data NACK. -/
theorem dataStageMakesNoConditionButStop : Obligations.DataStageMakesNoConditionButStop := by
  intro s t ev rest added hin hev ⟨hscl, _⟩ hphase hstep hadded
  rw [step_of_cons hin] at hstep
  rcases hev with rfl | ⟨bytes, rfl⟩
  · cases hstep
    exact (onDataIn_closes { s with inputs := rest } ⟨hscl, hphase⟩).conditions_eq hadded
  · cases hstep
    exact (onDataOut_closes bytes { s with inputs := rest } ⟨hscl, hphase⟩).conditions_eq hadded

/-! ### O49: a setup -/

/-- What an I2C_IO setup begins with: a START, but none for BEGIN while SCL is low (R83, R251). -/
def Bus.opening (b : Bool) (u : Bus) : List Condition := if b = true ∧ u.sclOut = .low then [] else [.start]

theorem Bus.start_opens {u : Bus} (h : held u ∨ released u) : Bus.Makes (u.opening true) u u.start := by
  have hmakes := u.start_makes
  rcases h with ⟨hscl, hsda⟩ | ⟨hsda, hscl⟩
  · simpa [Bus.opening, hscl, hsda, sdaCondition] using hmakes
  · simpa [Bus.opening, hscl, hsda, sdaCondition] using hmakes

theorem Bus.repeatedStart_opens {u : Bus} (h : held u ∨ released u) :
    Bus.Makes (u.opening false) u u.repeatedStart := by
  have hmakes := u.repeatedStart_makes
  rcases h with ⟨hscl, hsda⟩ | ⟨hsda, hscl⟩
  · simpa [Bus.opening, hscl, hsda, sdaCondition] using hmakes
  · simpa [Bus.opening, hscl, hsda, sdaCondition] using hmakes

theorem Bus.start_active (u : Bus) : u.start.Active := by simp [Bus.Active, Bus.start]

theorem Bus.repeatedStart_active (u : Bus) : u.repeatedStart.Active := by simp [Bus.Active, Bus.repeatedStart]

/-- R172: the address phase makes the opening's conditions alone, and ends inside the transaction. -/
theorem addressPhase_makes {s : State} (h : held s.bus ∨ released s.bus) :
    Bus.Makes (s.bus.opening s.pend.beginBit) s.bus (addressPhase s).2.bus ∧ (addressPhase s).2.bus.Active := by
  unfold addressPhase
  dsimp only
  cases s.pend.beginBit with
  | true =>
    obtain ⟨hbyte, hactive⟩ := Bus.write_quiet (addressByte s.pend.addr s.pend.dir) _ s.bus.start_active
    exact ⟨(Bus.start_opens h).trans_nil hbyte, hactive⟩
  | false =>
    obtain ⟨hbyte, hactive⟩ := Bus.write_quiet (addressByte s.pend.addr s.pend.dir) _ s.bus.repeatedStart_active
    exact ⟨(Bus.repeatedStart_opens h).trans_nil hbyte, hactive⟩

theorem addressAcked_closes (s : State) : Bus.Closes s.bus (addressAcked s).bus := by
  unfold addressAcked
  dsimp only
  split
  · exact stopIfEnd_closes { s with status := addressStatus true }
  · split
    · exact readChunk_closes { s with status := addressStatus true }
    · exact (Bus.Quiet.refl _).closes

theorem ioSetup_makes (b e : Bool) (f : SetupFields) {s : State} (h : held s.bus ∨ released s.bus) :
    Bus.Makes (s.bus.opening b ++ (ioSetup b e f s).bus.closing) s.bus (ioSetup b e f s).bus := by
  obtain ⟨hopen, hactive⟩ := addressPhase_makes (s := openTransfer b e f s) h
  unfold ioSetup
  dsimp only
  split
  · exact hopen.trans (addressAcked_closes _ hactive)
  · exact hopen.trans (Bus.stop_closes _ hactive)

/-- R195 to R198: the four I2C_IO instructions share the setup handler. -/
theorem exec_of_mem_ioForms {mk : SetupFields → Instr} {b e : Bool} (h : (mk, b, e) ∈ ioForms) (f : SetupFields)
    (s : State) : exec (mk f) s = .next (ioSetup b e f s) := by
  simp only [ioForms, List.mem_cons, Prod.mk.injEq, List.not_mem_nil, or_false] at h
  rcases h with ⟨rfl, rfl, rfl⟩ | ⟨rfl, rfl, rfl⟩ | ⟨rfl, rfl, rfl⟩ | ⟨rfl, rfl, rfl⟩ <;> rfl

/-- Settles O49: the opening's START, then no condition between the bits, then the STOP that releases the bus. -/
theorem setupFrameConditions : Obligations.SetupFrameConditions := by
  intro mk b e f s t added hform hbus hexec hadded
  rw [exec_of_mem_ioForms hform] at hexec
  cases hexec
  exact (ioSetup_makes b e f hbus).conditions_eq hadded

/-! ### O53: the host's run of PROBE -/

/-- The response the host takes for an event is the one its handler ends with. -/
theorem hostDeliver_of_respond {ev : HostEvent} {s t : State} {r : Response}
    (ht : handleInput (.host ev) s = .next t) (hresp : t.responses = s.responses ++ [r]) :
    hostDeliver ev s = some (r, t) := by
  simp [hostDeliver, ht, hresp]

/-- R186, R87: a request that succeeded ends OK with the bytes got. -/
theorem hostAcknowledge_eq (got : List Byte) (s : State) :
    hostAcknowledge got s = (.ok got, onStatusAck s) := by
  simp [hostAcknowledge, hostDeliver_of_respond (s := s) (ev := .statusAck) rfl rfl]

/-- R173: an I2C_IO setup whose address is not acknowledged stalls. -/
theorem ioSetup_responses_of_nack (b e : Bool) (f : SetupFields) {s : State} (h : s.bus.nextSda = .high) :
    (ioSetup b e f s).responses = s.responses ++ [.stall .addressNack] := by
  have hack : (addressPhase (openTransfer b e f s)).1 = ackFlag s.bus.nextSda := addressPhase_ack _
  rw [h, ackFlag] at hack
  rw [ioSetup, hack]
  rfl

/-- R174: an I2C_IO setup of length 0 whose address is acknowledged is accepted. -/
theorem ioSetup_responses_of_ack_zero (b e : Bool) {f : SetupFields} {s : State} (h : s.bus.nextSda = .low)
    (hlen : f.length = 0#16) : (ioSetup b e f s).responses = s.responses ++ [.accept] := by
  have hack : (addressPhase (openTransfer b e f s)).1 = ackFlag s.bus.nextSda := addressPhase_ack _
  have hpend : (addressPhase (openTransfer b e f s)).2.pend.len = 0#16 := hlen
  rw [h, ackFlag] at hack
  rw [ioSetup, hack]
  dsimp only
  obtain ⟨-, -, -, -, hresp, -⟩ :=
    stopIfEnd_frame { (addressPhase (openTransfer b e f s)).2 with status := addressStatus true }
  rw [addressAcked, if_pos hpend, State.respond_responses, hresp]
  rfl

/-- Settles O53: the setup's response is Accept or Stall by the address phase, and the loop ends with it. -/
theorem hostRunOfProbeReportsDevice : Obligations.HostRunOfProbeReportsDevice := by
  intro a fuel s
  have hsetup : handleInput (.host (.setup (AsmLine.request (.io true true .write a 0#16 [])))) s =
      .next (ioSetup true true ⟨reqTypeOut, 0#16, a, 0#16⟩ s) := rfl
  cases h : s.bus.nextSda with
  | low =>
    rw [hostRun, hostDeliver_of_respond hsetup (ioSetup_responses_of_ack_zero true true h rfl)]
    simp [hostLoop, hostAcknowledge_eq]
  | high =>
    rw [hostRun, hostDeliver_of_respond hsetup (ioSetup_responses_of_nack true true _ h)]
    simp [hostLoop]

end Sys2Proof.Machine
end

section
/-!
PROOFS for the statements of 40_bus_timing.md: the delay pair (O36), one `setLine` call (O25), the timing pair and the
CLOCK agent over a whole step (O43, O54), and that a stretch outcome changes only its trace event (O52).
-/

namespace Sys2Proof.Machine

open Sys2Proof.Safety

/-! ### O36: the delay pair meets the period -/

/-- A sixth of an even number and half of what two sixths leave make half of it (R106). -/
theorem two_mul_sixth_add_rest {q : Nat} (h : q % 2 = 0) : 2 * (q / 6 + (q - 2 * (q / 6)) / 2) = q := by
  omega

theorem evenRound_mod_two (r : Rounding) (p : Nat) : evenRound r p % 2 = 0 := by
  cases r <;> (simp only [evenRound]; omega)

/-- Rounding that falls below the period falls 2 short of the even number at or above it. -/
theorem evenRound_of_lt {r : Rounding} {p : Nat} (h : evenRound r p < p) : evenRound r p + 2 = p + p % 2 := by
  cases r <;> (simp only [evenRound] at h ⊢; omega)

theorem evenRound_of_not_lt {r : Rounding} {p : Nat} (h : ¬evenRound r p < p) : evenRound r p = p + p % 2 := by
  cases r with
  | down => simp only [evenRound] at h ⊢; omega
  | up => rfl

theorem delayPair_of_lt_three (r : Rounding) {p : Nat} (h : p < 3) : delayPair r p = (0, 1) := if_pos h

theorem delayPair_of_lt_five (r : Rounding) {p : Nat} (h3 : 3 ≤ p) (h5 : p < 5) : delayPair r p = (1, 1) := by
  rw [delayPair, if_neg (by omega), if_pos h5]

/-- From 5 on the two delays make the even number at or above the period: where rounding fell below the period, the
correction of R106 adds the 2 it is short. -/
theorem two_mul_delayPair_sum (r : Rounding) {p : Nat} (h : 5 ≤ p) :
    2 * ((delayPair r p).1 + (delayPair r p).2) = p + p % 2 := by
  have hsum := two_mul_sixth_add_rest (evenRound_mod_two r p)
  rw [delayPair, if_neg (by omega), if_neg (by omega)]
  dsimp only
  rw [hsum]
  by_cases hshort : evenRound r p < p
  · rw [if_pos hshort]
    have := evenRound_of_lt hshort
    dsimp only
    omega
  · rw [if_neg hshort, hsum, evenRound_of_not_lt hshort]

theorem two_mul_delayPair_sum_bounds (r : Rounding) {p : Nat} (h : 3 ≤ p) :
    p ≤ 2 * ((delayPair r p).1 + (delayPair r p).2) ∧ 2 * ((delayPair r p).1 + (delayPair r p).2) ≤ p + 2 := by
  rcases Nat.lt_or_ge p 5 with h5 | h5
  · rw [delayPair_of_lt_five r h h5]; omega
  · rw [two_mul_delayPair_sum r h5]; omega

/-- Settles O36: by the bands of R106. -/
theorem delayPairMeetsPeriod : Obligations.DelayPairMeetsPeriod := by
  intro r p
  have hbounds := two_mul_delayPair_sum_bounds r (p := p)
  refine ⟨?_, fun h3 => (hbounds h3).2, delayPair_of_lt_three r, delayPair_of_lt_five r, two_mul_delayPair_sum r⟩
  rcases Nat.lt_or_ge p 3 with h3 | h3
  · rw [delayPair_of_lt_three r h3]; omega
  · exact (hbounds h3).1

/-! ### O25: one `setLine` call -/

/-- Settles O25: the release of SCL is the one call with a stretch wait. -/
theorem setLineWaitsSetsAndWaits : Obligations.SetLineWaitsSetsAndWaits := by
  intro line lvl u
  cases line with
  | sda => simp [Bus.setLine_trace, Bus.setLineEvents]
  | scl => cases lvl <;> simp [Bus.setLine_trace, Bus.setLineEvents]

/-! ### O43: the timing pair -/

/-- No act of the driver writes the delay pair. -/
theorem Bus.Reaches.delays {k : Nat} {u v : Bus} (h : Bus.Reaches k u v) :
    v.delayBefore = u.delayBefore ∧ v.delayAfter = u.delayAfter := by
  induction h with
  | refl => exact ⟨rfl, rfl⟩
  | setLine _ _ _ ih => simpa using ih
  | sample _ _ _ ih => simpa using ih
  | setBusPhase _ _ ih => exact ih

/-- Settles O43: a host event runs acts of the driver, and a device reset computes the reset value again. -/
theorem timingPairNeverChanges : Obligations.TimingPairNeverChanges := by
  intro s t hbefore hafter hstep
  rcases step_cases hstep with ⟨-, rfl⟩ | ⟨e, rest, -, hhandle⟩
  · exact ⟨hbefore, hafter⟩
  · cases e with
    | host ev =>
      obtain ⟨hb, ha⟩ := (handleInput_reaches hhandle).delays
      exact ⟨hb.trans hbefore, ha.trans hafter⟩
    | reset => cases hhandle; exact ⟨rfl, rfl⟩

/-! ### O54: every stretch outcome is the CLOCK agent's next one -/

/-- The CLOCK agent is in the same state in both: its given outcomes, and how many it has drawn free. -/
def Bus.SameClock (u v : Bus) : Prop := u.clockAnswers = v.clockAnswers ∧ u.clockDrawn = v.clockDrawn

theorem Bus.SameClock.nextStretches {u v : Bus} (h : Bus.SameClock u v) (n : Nat) :
    nextStretches n u = nextStretches n v := by
  induction n generalizing u v with
  | zero => rfl
  | succ n ih =>
    have hnext : u.nextStretch = v.nextStretch := by
      obtain ⟨hans, hdrawn⟩ := h
      rw [Bus.nextStretch, Bus.nextStretch, hans, hdrawn]
    obtain ⟨hans, hdrawn⟩ := h
    rw [Safety.nextStretches, Safety.nextStretches, hnext, ih (Bus.dropStretch_clock hans hdrawn)]

theorem Bus.SameClock.dropStretches {u v : Bus} (h : Bus.SameClock u v) (n : Nat) :
    Bus.SameClock (dropStretches n u) (dropStretches n v) := by
  induction n generalizing u v with
  | zero => exact h
  | succ n ih =>
    obtain ⟨hans, hdrawn⟩ := h
    exact ih (Bus.dropStretch_clock hans hdrawn)

/-- From `u` to `v` the trace's stretch outcomes grow by the CLOCK agent's next ones, which it has given. -/
def Bus.TakesStretches (u v : Bus) : Prop :=
  ∃ n, stretchesOf v.trace = stretchesOf u.trace ++ nextStretches n u ∧ Bus.SameClock v (dropStretches n u)

/-- An act that leaves the CLOCK agent and the stretch outcomes takes none. -/
theorem Bus.TakesStretches.of_frame {u v : Bus} (htrace : stretchesOf v.trace = stretchesOf u.trace)
    (hclock : Bus.SameClock v u) : Bus.TakesStretches u v :=
  ⟨0, by simp [htrace, nextStretches], hclock⟩

theorem Bus.TakesStretches.trans {u v w : Bus} (h : Bus.TakesStretches u v) (h' : Bus.TakesStretches v w) :
    Bus.TakesStretches u w := by
  obtain ⟨a, htrace, hclock⟩ := h
  obtain ⟨b, htrace', hans', hdrawn'⟩ := h'
  have ⟨hans, hdrawn⟩ := hclock.dropStretches b
  refine ⟨a + b, ?_, ?_⟩
  · rw [htrace', htrace, hclock.nextStretches, List.append_assoc, nextStretches_add]
  · rw [dropStretches_add]
    exact ⟨hans'.trans hans, hdrawn'.trans hdrawn⟩

/-- A `setLine` call takes one outcome where it releases SCL, and none elsewhere (R105). -/
theorem Bus.setLine_takesStretches (line : Line) (lvl : Level) (u : Bus) :
    Bus.TakesStretches u (u.setLine line lvl) := by
  have hnone (h : stretchesOf (u.setLineEvents line lvl) = []) (hclock : Bus.SameClock (u.setLine line lvl) u) :
      Bus.TakesStretches u (u.setLine line lvl) :=
    .of_frame (by rw [Bus.setLine_trace, stretchesOf_append, h, List.append_nil]) hclock
  cases line with
  | sda => exact hnone rfl ⟨rfl, rfl⟩
  | scl =>
    cases lvl with
    | low => exact hnone rfl ⟨rfl, rfl⟩
    | high =>
      have htrace : stretchesOf (u.setLine .scl .high).trace = stretchesOf u.trace ++ [u.nextStretch] := by
        rw [Bus.setLine_trace, stretchesOf_append]
        rfl
      exact ⟨1, htrace, u.setLine_scl_high_clockAnswers, u.setLine_scl_high_clockDrawn⟩

/-- Of the driver's acts only a `setLine` call takes outcomes. -/
theorem Bus.Reaches.takesStretches {k : Nat} {u v : Bus} (h : Bus.Reaches k u v) : Bus.TakesStretches u v := by
  induction h with
  | refl => exact .of_frame rfl ⟨rfl, rfl⟩
  | setLine line lvl _ ih => exact (Bus.setLine_takesStretches line lvl _).trans ih
  | sample _ _ _ ih => exact (Bus.TakesStretches.of_frame (by simp) ⟨by simp, by simp⟩).trans ih
  | @setBusPhase _ u _ p _ ih =>
    exact (Bus.TakesStretches.of_frame (u := u) (v := { u with busPhase := p }) rfl ⟨rfl, rfl⟩).trans ih

/-- Settles O54: a handler is a run of the driver's acts. -/
theorem everyStretchIsTheNextClockOutcome : Obligations.EveryStretchIsTheNextClockOutcome := by
  intro s t ev rest hin hstep
  exact (step_reaches hin hstep).takesStretches

/-! ### O52: a stretch outcome changes only its trace event

The driver's two acts keep the agreement of two buses on all but the stretch outcomes, and a sample answers the same
level to both. The operations over them, up to a whole step, then take the same branches on both sides. -/

/-- The buses agree on all but the CLOCK agent and the stretch outcomes in the trace (R104). -/
structure Bus.SameButStretch (u v : Bus) : Prop where
  sdaOut : u.sdaOut = v.sdaOut
  sclOut : u.sclOut = v.sclOut
  delayBefore : u.delayBefore = v.delayBefore
  delayAfter : u.delayAfter = v.delayAfter
  busPhase : u.busPhase = v.busPhase
  trace : eraseStretch u.trace = eraseStretch v.trace
  busAnswers : u.busAnswers = v.busAnswers
  busDrawn : u.busDrawn = v.busDrawn

/-- Two operations give equal answers and leave buses that agree. -/
def Bus.SameResult {α : Type} (p q : α × Bus) : Prop := p.1 = q.1 ∧ Bus.SameButStretch p.2 q.2

/-! #### The driver -/

theorem Bus.setBusPhase_sameButStretch (p : BusPhase) {u v : Bus} (h : Bus.SameButStretch u v) :
    Bus.SameButStretch { u with busPhase := p } { v with busPhase := p } :=
  { h with busPhase := rfl }

/-- The events of a `setLine` call differ in the stretch outcome at most. -/
theorem Bus.setLineEvents_sameButStretch (line : Line) (lvl : Level) {u v : Bus} (h : Bus.SameButStretch u v) :
    eraseStretch (u.setLineEvents line lvl) = eraseStretch (v.setLineEvents line lvl) := by
  cases line <;> cases lvl <;> simp [Bus.setLineEvents, eraseStretch, h.delayBefore, h.delayAfter]

theorem Bus.setLine_sameButStretch (line : Line) (lvl : Level) {u v : Bus} (h : Bus.SameButStretch u v) :
    Bus.SameButStretch (u.setLine line lvl) (v.setLine line lvl) where
  sdaOut := by cases line <;> simp [h.sdaOut]
  sclOut := by cases line <;> simp [h.sclOut]
  delayBefore := by simp [h.delayBefore]
  delayAfter := by simp [h.delayAfter]
  busPhase := by simp [h.busPhase]
  trace := by simp [Bus.setLine_trace, h.trace, Bus.setLineEvents_sameButStretch line lvl h]
  busAnswers := by simp [h.busAnswers]
  busDrawn := by simp [h.busDrawn]

/-- A sample reads `sda_out` and the BUS agent alone. -/
theorem Bus.sampleSda_sameResult {u v : Bus} (h : Bus.SameButStretch u v) :
    Bus.SameResult u.sampleSda v.sampleSda := by
  have hagent : Bus.SameAgent u v := ⟨h.busAnswers, h.busDrawn⟩
  obtain ⟨hans, hdrawn⟩ := hagent.dropSda
  cases hu : u.sdaOut with
  | low =>
    have hv : v.sdaOut = .low := h.sdaOut ▸ hu
    simpa [Bus.SameResult, Bus.sampleSda, hu, hv] using h
  | high =>
    rw [Bus.sampleSda_released hu, Bus.sampleSda_released (h.sdaOut ▸ hu)]
    refine ⟨hagent.nextSda, ?_⟩
    constructor
    case trace => simp [h.trace, hagent.nextSda]
    case busAnswers => exact hans
    case busDrawn => exact hdrawn
    all_goals simp [h.sdaOut, h.sclOut, h.delayBefore, h.delayAfter, h.busPhase]

theorem Bus.start_sameButStretch {u v : Bus} (h : Bus.SameButStretch u v) : Bus.SameButStretch u.start v.start :=
  setBusPhase_sameButStretch _ <| setLine_sameButStretch _ _ <| setLine_sameButStretch _ _ h

theorem Bus.repeatedStart_sameButStretch {u v : Bus} (h : Bus.SameButStretch u v) :
    Bus.SameButStretch u.repeatedStart v.repeatedStart :=
  setBusPhase_sameButStretch _ <| setLine_sameButStretch _ _ <| setLine_sameButStretch _ _ <|
    setLine_sameButStretch _ _ <| setLine_sameButStretch _ _ h

theorem Bus.stop_sameButStretch {u v : Bus} (h : Bus.SameButStretch u v) : Bus.SameButStretch u.stop v.stop :=
  setBusPhase_sameButStretch _ <| setLine_sameButStretch _ _ <| setLine_sameButStretch _ _ <|
    setLine_sameButStretch _ _ h

theorem Bus.clockPulse_sameButStretch {u v : Bus} (h : Bus.SameButStretch u v) :
    Bus.SameButStretch u.clockPulse v.clockPulse :=
  setLine_sameButStretch _ _ <| setLine_sameButStretch _ _ h

theorem Bus.writeBits_sameButStretch (b : Byte) (n : Nat) {u v : Bus} (h : Bus.SameButStretch u v) :
    Bus.SameButStretch (Bus.writeBits b n u) (Bus.writeBits b n v) := by
  induction n generalizing u v with
  | zero => exact h
  | succ n ih => exact ih (clockPulse_sameButStretch (setLine_sameButStretch _ _ h))

theorem Bus.write_sameResult (b : Byte) {u v : Bus} (h : Bus.SameButStretch u v) :
    Bus.SameResult (u.write b) (v.write b) := by
  obtain ⟨hlevel, hbus⟩ := sampleSda_sameResult <| setLine_sameButStretch .scl .high <|
    setLine_sameButStretch .sda .high <| writeBits_sameButStretch b 8 h
  exact ⟨congrArg ackFlag hlevel, setLine_sameButStretch _ _ hbus⟩

theorem Bus.readBits_sameResult (n : Nat) (x : Byte) {u v : Bus} (h : Bus.SameButStretch u v) :
    Bus.SameResult (Bus.readBits n x u) (Bus.readBits n x v) := by
  induction n generalizing x u v with
  | zero => exact ⟨rfl, h⟩
  | succ n ih =>
    obtain ⟨hlevel, hbus⟩ := sampleSda_sameResult (setLine_sameButStretch .scl .high h)
    rw [Bus.readBits, Bus.readBits, hlevel]
    exact ih _ (setLine_sameButStretch _ _ hbus)

theorem Bus.read_sameResult (isLast : Bool) {u v : Bus} (h : Bus.SameButStretch u v) :
    Bus.SameResult (u.read isLast) (v.read isLast) := by
  obtain ⟨hbyte, hbus⟩ := readBits_sameResult 8 0#8 <| setLine_sameButStretch .scl .low <|
    setLine_sameButStretch .sda .high h
  exact ⟨hbyte, setLine_sameButStretch _ _ <| clockPulse_sameButStretch <| setLine_sameButStretch _ _ hbus⟩

/-! #### The bridge -/

/-- The state with another bus. -/
def State.withBus (v : Bus) (s : State) : State := { s with bus := v }

/-- The states differ in their buses alone, and those agree. -/
def SameButStretch (s t : State) : Prop := ∃ v, Bus.SameButStretch s.bus v ∧ t = s.withBus v

theorem agreeButStretch_iff {s t : State} : agreeButStretch s t ↔ SameButStretch s t := by
  constructor
  · rintro ⟨hsda, hscl, hbefore, hafter, hbusPhase, htrace, hans, hdrawn, hstatus, hphase, hpend, hbuf, hresp, hin⟩
    refine ⟨t.bus, ⟨hsda, hscl, hbefore, hafter, hbusPhase, htrace, hans, hdrawn⟩, ?_⟩
    simp [State.withBus, hstatus, hphase, hpend, hbuf, hresp, hin]
  · rintro ⟨v, h, rfl⟩
    exact ⟨h.sdaOut, h.sclOut, h.delayBefore, h.delayAfter, h.busPhase, h.trace, h.busAnswers, h.busDrawn,
      rfl, rfl, rfl, rfl, rfl, rfl⟩

theorem addressPhase_sameButStretch {s t : State} (h : SameButStretch s t) :
    (addressPhase s).1 = (addressPhase t).1 ∧ SameButStretch (addressPhase s).2 (addressPhase t).2 := by
  obtain ⟨v, hv, rfl⟩ := h
  unfold addressPhase State.withBus
  dsimp only
  split
  · obtain ⟨hack, hbus⟩ := Bus.write_sameResult (addressByte s.pend.addr s.pend.dir) (Bus.start_sameButStretch hv)
    exact ⟨hack, _, hbus, rfl⟩
  · obtain ⟨hack, hbus⟩ :=
      Bus.write_sameResult (addressByte s.pend.addr s.pend.dir) (Bus.repeatedStart_sameButStretch hv)
    exact ⟨hack, _, hbus, rfl⟩

theorem stopIfEnd_sameButStretch {s t : State} (h : SameButStretch s t) :
    SameButStretch (stopIfEnd s) (stopIfEnd t) := by
  obtain ⟨v, hv, rfl⟩ := h
  unfold stopIfEnd State.withBus
  dsimp only
  split
  · exact ⟨_, Bus.stop_sameButStretch hv, rfl⟩
  · exact ⟨v, hv, rfl⟩

theorem respond_sameButStretch (r : Response) {s t : State} (h : SameButStretch s t) :
    SameButStretch (s.respond r) (t.respond r) := by
  obtain ⟨v, hv, rfl⟩ := h
  exact ⟨v, hv, rfl⟩

/-- Both states take the same branch. -/
theorem ite_sameButStretch {p : Prop} [Decidable p] {s s' t t' : State} (h : SameButStretch s t)
    (h' : SameButStretch s' t') : SameButStretch (if p then s else s') (if p then t else t') := by
  split
  · exact h
  · exact h'

theorem setPhase_sameButStretch (p : Phase) {s t : State} (h : SameButStretch s t) :
    SameButStretch { s with phase := p } { t with phase := p } := by
  obtain ⟨v, hv, rfl⟩ := h
  exact ⟨v, hv, rfl⟩

/-- The read loop stores the same bytes in both buffers. -/
theorem readOver_sameButStretch (ks : List (Fin Config.cap)) {s t : State} (h : SameButStretch s t) :
    SameButStretch (readOver ks s) (readOver ks t) := by
  induction ks generalizing s t with
  | nil => exact h
  | cons k ks ih =>
    obtain ⟨v, hv, rfl⟩ := h
    obtain ⟨hbyte, hbus⟩ := Bus.read_sameResult (s.pend.done.toNat + k.val + 1 == s.pend.len.toNat) hv
    refine ih ⟨_, hbus, ?_⟩
    dsimp only [State.withBus]
    rw [hbyte]
    rfl

theorem advanceRead_sameButStretch (n : Nat) {s t : State} (h : SameButStretch s t) :
    SameButStretch (advanceRead n s) (advanceRead n t) := by
  obtain ⟨v, hv, rfl⟩ := h
  exact ite_sameButStretch (setPhase_sameButStretch .idle (stopIfEnd_sameButStretch ⟨v, hv, rfl⟩)) ⟨v, hv, rfl⟩

theorem readChunk_sameButStretch {s t : State} (h : SameButStretch s t) :
    SameButStretch (readChunk s) (readChunk t) := by
  have hpend : t.pend = s.pend := by obtain ⟨v, -, rfl⟩ := h; rfl
  obtain ⟨v, hv, hread⟩ := advanceRead_sameButStretch (chunkSize s.pend)
    (readOver_sameButStretch (indexes (chunkSize s.pend)) h)
  unfold readChunk
  dsimp only
  rw [hpend, hread]
  exact ⟨v, hv, rfl⟩

theorem storeOver_sameButStretch (ks : List (Fin Config.cap)) (bs : List Byte) {s t : State}
    (h : SameButStretch s t) : SameButStretch (storeOver ks bs s) (storeOver ks bs t) := by
  induction ks generalizing bs s t with
  | nil => simpa [storeOver] using h
  | cons k ks ih =>
    cases bs with
    | nil => simpa [storeOver] using h
    | cons b bs =>
      obtain ⟨v, hv, rfl⟩ := h
      exact ih bs ⟨v, hv, rfl⟩

theorem writeByte_sameButStretch (k : Fin Config.cap) {s t : State} (h : SameButStretch s t) :
    (writeByte k s).1 = (writeByte k t).1 ∧ SameButStretch (writeByte k s).2 (writeByte k t).2 := by
  obtain ⟨v, hv, rfl⟩ := h
  obtain ⟨hack, hbus⟩ := Bus.write_sameResult (s.memRead k) hv
  exact ⟨hack, _, hbus, rfl⟩

/-- The write loop stops at the same byte on both sides. -/
theorem writeOver_sameButStretch (ks : List (Fin Config.cap)) {s t : State} (h : SameButStretch s t) :
    (writeOver ks s).1 = (writeOver ks t).1 ∧ SameButStretch (writeOver ks s).2 (writeOver ks t).2 := by
  induction ks generalizing s t with
  | nil => exact ⟨rfl, h⟩
  | cons k ks ih =>
    obtain ⟨hack, hbyte⟩ := writeByte_sameButStretch k h
    rw [writeOver, writeOver, hack]
    split
    · exact ih hbyte
    · exact ⟨rfl, hbyte⟩

theorem chunkWritten_sameButStretch {s t : State} (h : SameButStretch s t) :
    SameButStretch (chunkWritten s) (chunkWritten t) := by
  obtain ⟨v, hv, rfl⟩ := h
  exact ite_sameButStretch
    (respond_sameButStretch .accept (setPhase_sameButStretch .idle (stopIfEnd_sameButStretch ⟨v, hv, rfl⟩)))
    ⟨v, hv, rfl⟩

theorem dataNacked_sameButStretch {s t : State} (h : SameButStretch s t) :
    SameButStretch (dataNacked s) (dataNacked t) := by
  obtain ⟨v, hv, rfl⟩ := h
  exact ⟨_, Bus.stop_sameButStretch hv, rfl⟩

theorem writeChunk_sameButStretch (m : Nat) {s t : State} (h : SameButStretch s t) :
    SameButStretch (writeChunk m s) (writeChunk m t) := by
  obtain ⟨hacks, hwritten⟩ := writeOver_sameButStretch (indexes m) h
  unfold writeChunk
  dsimp only
  rw [hacks]
  split
  · exact chunkWritten_sameButStretch hwritten
  · exact dataNacked_sameButStretch hwritten

theorem addressNacked_sameButStretch {s t : State} (h : SameButStretch s t) :
    SameButStretch (addressNacked s) (addressNacked t) := by
  obtain ⟨v, hv, rfl⟩ := h
  exact ⟨_, Bus.stop_sameButStretch hv, rfl⟩

theorem addressAcked_sameButStretch {s t : State} (h : SameButStretch s t) :
    SameButStretch (addressAcked s) (addressAcked t) := by
  obtain ⟨v, hv, rfl⟩ := h
  refine ite_sameButStretch (respond_sameButStretch .accept (stopIfEnd_sameButStretch ⟨v, hv, rfl⟩)) ?_
  dsimp only [State.withBus]
  split
  · exact readChunk_sameButStretch ⟨v, hv, rfl⟩
  · exact ⟨v, hv, rfl⟩

/-! #### The entry points -/

theorem ioSetup_sameButStretch (b e : Bool) (f : SetupFields) {s t : State} (h : SameButStretch s t) :
    SameButStretch (ioSetup b e f s) (ioSetup b e f t) := by
  have hopen : SameButStretch (openTransfer b e f s) (openTransfer b e f t) := by
    obtain ⟨v, hv, rfl⟩ := h
    exact ⟨v, hv, rfl⟩
  obtain ⟨hack, hphase⟩ := addressPhase_sameButStretch hopen
  unfold ioSetup
  dsimp only
  rw [hack]
  split
  · exact addressAcked_sameButStretch hphase
  · exact addressNacked_sameButStretch hphase

theorem onDataIn_sameButStretch {s t : State} (h : SameButStretch s t) :
    SameButStretch (onDataIn s) (onDataIn t) := by
  have hphase : t.phase = s.phase := by obtain ⟨v, -, rfl⟩ := h; rfl
  unfold onDataIn
  rw [hphase]
  split
  · exact readChunk_sameButStretch h
  · exact respond_sameButStretch _ h
  · exact respond_sameButStretch _ h

theorem onDataOut_sameButStretch (bytes : List Byte) {s t : State} (h : SameButStretch s t) :
    SameButStretch (onDataOut bytes s) (onDataOut bytes t) := by
  have hphase : t.phase = s.phase := by obtain ⟨v, -, rfl⟩ := h; rfl
  have hpend : t.pend = s.pend := by obtain ⟨v, -, rfl⟩ := h; rfl
  unfold onDataOut
  rw [hphase, hpend]
  split
  · exact writeChunk_sameButStretch _ (storeOver_sameButStretch _ bytes h)
  · exact respond_sameButStretch _ h
  · exact respond_sameButStretch _ h

theorem onSetup_sameButStretch (r : Request) {s t : State} (h : SameButStretch s t) :
    ∃ s' t', onSetup r s = .next s' ∧ onSetup r t = .next t' ∧ SameButStretch s' t' := by
  rcases onSetup_cases r with ⟨-, a, ha⟩ | ⟨-, b, e, f, hio⟩
  · have hstatus : t.status = s.status := by obtain ⟨v, -, rfl⟩ := h; rfl
    exact ⟨_, _, ha s, ha t, hstatus ▸ respond_sameButStretch (a s.status) h⟩
  · exact ⟨_, _, hio s, hio t, ioSetup_sameButStretch b e f h⟩

theorem deviceReset_sameButStretch {s t : State} (h : SameButStretch s t) :
    SameButStretch s.deviceReset t.deviceReset := by
  obtain ⟨v, hv, rfl⟩ := h
  exact ⟨(s.withBus v).deviceReset.bus, ⟨rfl, rfl, rfl, rfl, rfl, rfl, hv.busAnswers, hv.busDrawn⟩, rfl⟩

/-- Both states answer every input, and agree afterwards. -/
theorem handleInput_sameButStretch (e : Input) {s t : State} (h : SameButStretch s t) :
    ∃ s' t', handleInput e s = .next s' ∧ handleInput e t = .next t' ∧ SameButStretch s' t' := by
  cases e with
  | reset => exact ⟨_, _, rfl, rfl, deviceReset_sameButStretch h⟩
  | host ev =>
    cases ev with
    | setup r => exact onSetup_sameButStretch r h
    | dataIn => exact ⟨_, _, rfl, rfl, onDataIn_sameButStretch h⟩
    | dataOut bytes => exact ⟨_, _, rfl, rfl, onDataOut_sameButStretch bytes h⟩
    | statusAck => exact ⟨_, _, rfl, rfl, respond_sameButStretch .accept h⟩

/-- Both states step, and agree afterwards. -/
theorem step_sameButStretch {s t : State} (h : SameButStretch s t) :
    ∃ s' t', step s = .next s' ∧ step t = .next t' ∧ SameButStretch s' t' := by
  obtain ⟨v, hv, rfl⟩ := h
  cases hi : s.inputs with
  | nil => exact ⟨s, s.withBus v, step_of_nil hi, step_of_nil hi, v, hv, rfl⟩
  | cons e rest =>
    rw [step_of_cons hi, step_of_cons (s := s.withBus v) hi]
    exact handleInput_sameButStretch e ⟨v, hv, rfl⟩

/-- Settles O52: no branch of a handler reads the CLOCK agent or the trace. -/
theorem stretchOutcomeChangesOnlyTheTrace : Obligations.StretchOutcomeChangesOnlyTheTrace := by
  intro s t h
  obtain ⟨s', t', hs, ht, hsame⟩ := step_sameButStretch (agreeButStretch_iff.mp h)
  exact ⟨s', t', hs, ht, agreeButStretch_iff.mpr hsame⟩

end Sys2Proof.Machine
end

section
/-!
PROOFS for the statements of 41_bus_driver.md: what the driver's operations show on the bus, leave in the lines and take
from the BUS agent (O27 to O31), and the bus conditions that start, repeated start and stop make (O32, O33, O34).
-/

namespace Sys2Proof.Machine

open Sys2Proof.Safety

/-! ### The events shown

A trace's `Set` events and its samples can be read off the events it shows, so one account of those serves all
three. -/

@[simp] theorem setsOf_shownOf (es : List BusEvent) : setsOf (shownOf es) = setsOf es := by
  induction es with
  | nil => rfl
  | cons e es ih => cases e <;> simp [shownOf, setsOf, ih]

@[simp] theorem samplesOf_shownOf (es : List BusEvent) : samplesOf (shownOf es) = samplesOf es := by
  induction es with
  | nil => rfl
  | cons e es ih => cases e <;> simp [shownOf, samplesOf, ih]

/-- `Shows es n u v`: the driver went from `u` to `v`, showing the events `es` and taking `n` answers of the BUS agent,
and kept `bus_phase`. -/
structure Bus.Shows (es : List BusEvent) (n : Nat) (u v : Bus) : Prop where
  shown : shownOf v.trace = shownOf u.trace ++ es
  busPhase : v.busPhase = u.busPhase
  agent : Bus.SameAgent v (dropAnswers n u)

theorem Bus.Shows.setsOf_eq {es : List BusEvent} {n : Nat} {u v : Bus} (h : Bus.Shows es n u v) :
    setsOf v.trace = setsOf u.trace ++ setsOf es := by
  rw [← setsOf_shownOf v.trace, h.shown, setsOf_append, setsOf_shownOf]

theorem Bus.Shows.samplesOf_eq {es : List BusEvent} {n : Nat} {u v : Bus} (h : Bus.Shows es n u v) :
    samplesOf v.trace = samplesOf u.trace ++ samplesOf es := by
  rw [← samplesOf_shownOf v.trace, h.shown, samplesOf_append, samplesOf_shownOf]

theorem Bus.Shows.refl (u : Bus) : Bus.Shows [] 0 u u :=
  ⟨by simp, rfl, rfl, rfl⟩

/-- Two runs in a row; the second one's answers come first in the sum, as in `dropAnswers (n + 1)`. -/
theorem Bus.Shows.trans {es es' : List BusEvent} {m n : Nat} {u v w : Bus} (h : Bus.Shows es m u v)
    (h' : Bus.Shows es' n v w) : Bus.Shows (es ++ es') (n + m) u w := by
  refine ⟨by rw [h'.shown, h.shown, List.append_assoc], h'.busPhase.trans h.busPhase, ?_⟩
  obtain ⟨hans, hdrawn⟩ := h.agent.dropAnswers n
  obtain ⟨hans', hdrawn'⟩ := h'.agent
  rw [Nat.add_comm, dropAnswers_add]
  exact ⟨hans'.trans hans, hdrawn'.trans hdrawn⟩

/-- What the agent answers after the run are its answers after the `m` that the run took. -/
theorem Bus.Shows.nextAnswers_eq {es : List BusEvent} {m : Nat} {u v : Bus} (h : Bus.Shows es m u v) (n : Nat) :
    nextAnswers n v = nextAnswers n (dropAnswers m u) :=
  h.agent.nextAnswers n

theorem Bus.Shows.nextSda_eq {es : List BusEvent} {u v : Bus} (h : Bus.Shows es 0 u v) : v.nextSda = u.nextSda :=
  h.agent.nextSda

/-- A `setLine` call shows its `Set` event and asks the BUS agent nothing (R100). -/
theorem Bus.setLine_shows (line : Line) (lvl : Level) (u : Bus) :
    Bus.Shows [.set line lvl] 0 u (u.setLine line lvl) :=
  ⟨by simp, by simp, by simp [dropAnswers], by simp [dropAnswers]⟩

/-- A sample with SDA released shows the agent's next answer and takes it (R46). -/
theorem Bus.sampleSda_shows {u : Bus} (h : u.sdaOut = .high) :
    Bus.Shows [.sampleSda u.nextSda] 1 u u.sampleSda.2 := by
  rw [Bus.sampleSda_released h]
  exact ⟨by simp [shownOf], by simp, rfl, rfl⟩

/-- A clock pulse asks the BUS agent nothing. -/
theorem Bus.clockPulse_shows (u : Bus) : Bus.Shows [.set .scl .high, .set .scl .low] 0 u u.clockPulse :=
  (Bus.setLine_shows .scl .high u).trans (Bus.setLine_shows .scl .low _)

/-! ### O30: `write` -/

theorem bitLevel_getLsbD (b : Byte) (k : Nat) :
    bitLevel (b.getLsbD k) = if b.toNat / 2 ^ k % 2 = 1 then .high else .low := by
  rw [BitVec.getLsbD, Nat.testBit_eq_decide_div_mod_eq]
  split <;> simp [*, bitLevel]

/-- The `n` low bits of a byte as levels, the most significant first. -/
def lowLevels (b : Byte) : Nat → List Level
  | 0 => []
  | n + 1 => bitLevel (b.getLsbD n) :: lowLevels b n

theorem lowLevels_eight (b : Byte) : lowLevels b 8 = levelsOf b := by
  simp only [lowLevels, levelsOf, bitLevel_getLsbD, List.map]

theorem Bus.writeBits_shows (b : Byte) (n : Nat) (u : Bus) :
    Bus.Shows ((lowLevels b n).flatMap bitShown) 0 u (Bus.writeBits b n u) := by
  induction n generalizing u with
  | zero => exact .refl u
  | succ n ih =>
    exact ((Bus.setLine_shows .sda (bitLevel (b.getLsbD n)) u).trans (Bus.clockPulse_shows _)).trans (ih _)

theorem Bus.write_shows (b : Byte) (u : Bus) : Bus.Shows (writeShown b u.nextSda) 1 u (u.write b).2 := by
  have hsent := Bus.writeBits_shows b 8 u
  have hninth := (hsent.trans (Bus.setLine_shows .sda .high _)).trans (Bus.setLine_shows .scl .high _)
  have hsampled := hninth.trans (Bus.sampleSda_shows (by simp))
  have hall := hsampled.trans (Bus.setLine_shows .scl .low _)
  rw [hninth.nextSda_eq, lowLevels_eight] at hall
  simpa [writeShown, Bus.write] using hall

theorem setsOf_flatMap_bitShown (ds : List Level) :
    setsOf (ds.flatMap bitShown) = ds.flatMap fun d => (Line.sda, d) :: pulseSets := by
  induction ds with
  | nil => rfl
  | cons d ds ih => simp [bitShown, pulseSets, setsOf, ih]

theorem samplesOf_flatMap_bitShown (ds : List Level) : samplesOf (ds.flatMap bitShown) = [] := by
  induction ds with
  | nil => rfl
  | cons d ds ih => simp [bitShown, samplesOf, ih]

theorem setsOf_writeShown (b : Byte) (d : Level) : setsOf (writeShown b d) = writeSets b := by
  simp [writeShown, writeSets, setsOf_flatMap_bitShown, setsOf, pulseSets]

theorem samplesOf_writeShown (b : Byte) (d : Level) : samplesOf (writeShown b d) = [d] := by
  simp [writeShown, samplesOf_flatMap_bitShown, samplesOf]

theorem ackFlag_eq_true (d : Level) : ackFlag d = true ↔ d = .low := by
  cases d <;> simp [ackFlag]

/-- Settles O30: the bits ask the agent nothing, so the one sample is the agent's next answer. -/
theorem writeSendsByteAndReturnsAck : Obligations.WriteSendsByteAndReturnsAck := by
  intro b u
  have h := Bus.write_shows b u
  obtain ⟨hans, hdrawn⟩ := h.agent
  have hack : (u.write b).1 = true ↔ u.nextSda = .low := by rw [Bus.write_ack, ackFlag_eq_true]
  refine ⟨hack, by simp [Bus.write], by simp [Bus.write], h.busPhase, ?_, h.shown, ?_, hans, hdrawn⟩
  · rw [h.setsOf_eq, setsOf_writeShown]
  · rw [h.samplesOf_eq, samplesOf_writeShown]

/-! ### O31: `read` -/

/-- A byte with one sampled level shifted in from the right (R130). -/
def shiftInLevel (v : Byte) (d : Level) : Byte := (v <<< 1) ||| levelBit d

theorem shiftInLevel_ofNat (x : Nat) (d : Level) :
    shiftInLevel (BitVec.ofNat 8 x) d = BitVec.ofNat 8 (2 * x + if d = .high then 1 else 0) := by
  have hbit : levelBit d = BitVec.ofNat 8 (if d = .high then 1 else 0) := by cases d <;> rfl
  have hshift : BitVec.ofNat 8 x <<< 1 = BitVec.ofNat 8 (x <<< 1) := by
    apply BitVec.eq_of_toNat_eq
    simp [Nat.shiftLeft_eq]
  have hlt : (if d = Level.high then 1 else 0) < 2 ^ 1 := by split <;> decide
  rw [shiftInLevel, hbit, hshift, ← BitVec.ofNat_or, ← Nat.shiftLeft_add_eq_or_of_lt hlt, Nat.shiftLeft_eq,
    Nat.mul_comm, pow_one]

/-- Shifting levels in one by one gives the byte they stand for (R43). -/
theorem foldl_shiftInLevel (ds : List Level) : ds.foldl shiftInLevel 0#8 = byteOfLevels ds :=
  List.foldl_hom (BitVec.ofNat 8) shiftInLevel_ofNat

/-- One bit of a read: the pulse with its sample, SDA staying released (R130). -/
theorem Bus.readBit_shows {u : Bus} (h : u.sdaOut = .high) :
    Bus.Shows (sampledBitShown u.nextSda) 1 u ((u.setLine .scl .high).sampleSda.2.setLine .scl .low) := by
  have hhigh := Bus.setLine_shows .scl .high u
  have hsampled := hhigh.trans (Bus.sampleSda_shows (by simpa using h))
  rw [hhigh.nextSda_eq] at hsampled
  exact hsampled.trans (Bus.setLine_shows .scl .low _)

/-- With SDA released, `n` bits are read from the agent's next `n` answers, each shifted in from the right. -/
theorem Bus.readBits_shows (n : Nat) (v : Byte) {u : Bus} (h : u.sdaOut = .high) :
    (Bus.readBits n v u).1 = (nextAnswers n u).foldl shiftInLevel v ∧
      Bus.Shows ((nextAnswers n u).flatMap sampledBitShown) n u (Bus.readBits n v u).2 := by
  induction n generalizing v u with
  | zero => exact ⟨rfl, .refl u⟩
  | succ n ih =>
    have hbit := Bus.readBit_shows h
    have hvalue : (u.setLine .scl .high).sampleSda.1 = u.nextSda := by simp [Bus.sampleSda_released, h]
    obtain ⟨hrest, hshows⟩ := ih (shiftInLevel v u.nextSda)
      (u := (u.setLine .scl .high).sampleSda.2.setLine .scl .low) (by simpa using h)
    rw [hbit.nextAnswers_eq] at hrest hshows
    rw [Bus.readBits, hvalue]
    exact ⟨hrest, hbit.trans hshows⟩

/-- The end of a read: the acknowledge bit that `isLast` asks for, its pulse, SDA released (R131). -/
theorem Bus.readAck_shows (isLast : Bool) (u : Bus) :
    Bus.Shows (readAckShown isLast) 0 u
      ((u.setLine .sda (readAckLevel isLast)).clockPulse.setLine .sda .high) := by
  have hack := Bus.setLine_shows .sda (readAckLevel isLast) u
  have hlevel : readAckLevel isLast = if isLast then .high else .low := by cases isLast <;> rfl
  rw [hlevel] at hack ⊢
  exact (hack.trans (Bus.clockPulse_shows _)).trans (Bus.setLine_shows .sda .high _)

/-- R130: SDA released and SCL low, the eight bits, the acknowledge bit. -/
theorem Bus.read_shows (isLast : Bool) (u : Bus) :
    (u.read isLast).1 = byteOfLevels (nextAnswers 8 u) ∧
      Bus.Shows (readShown isLast (nextAnswers 8 u)) 8 u (u.read isLast).2 := by
  have hready := (Bus.setLine_shows .sda .high u).trans (Bus.setLine_shows .scl .low _)
  obtain ⟨hvalue, hbits⟩ := Bus.readBits_shows 8 0#8 (u := (u.setLine .sda .high).setLine .scl .low) (by simp)
  rw [hready.nextAnswers_eq] at hvalue hbits
  exact ⟨hvalue.trans (foldl_shiftInLevel _), hready.trans (hbits.trans (Bus.readAck_shows isLast _))⟩

theorem setsOf_flatMap_sampledBitShown (ds : List Level) :
    setsOf (ds.flatMap sampledBitShown) = (List.replicate ds.length pulseSets).flatten := by
  induction ds with
  | nil => rfl
  | cons d ds ih => simp [sampledBitShown, pulseSets, setsOf, List.replicate_succ, ih]

theorem samplesOf_flatMap_sampledBitShown (ds : List Level) : samplesOf (ds.flatMap sampledBitShown) = ds := by
  induction ds with
  | nil => rfl
  | cons d ds ih => simp [sampledBitShown, samplesOf, ih]

theorem setsOf_readShown (isLast : Bool) {ds : List Level} (h : ds.length = 8) :
    setsOf (readShown isLast ds) = readSets isLast := by
  simp [readShown, readAckShown, readSets, pulseSets, setsOf_flatMap_sampledBitShown, setsOf, h]

theorem samplesOf_readShown (isLast : Bool) (ds : List Level) : samplesOf (readShown isLast ds) = ds := by
  simp [readShown, readAckShown, samplesOf_flatMap_sampledBitShown, samplesOf]

/-- Settles O31: SDA is released before the eight samples, so each is one of the agent's next answers. -/
theorem readShiftsInByteAndStrobesAck : Obligations.ReadShiftsInByteAndStrobesAck := by
  intro isLast u
  obtain ⟨hvalue, h⟩ := Bus.read_shows isLast u
  obtain ⟨hans, hdrawn⟩ := h.agent
  refine ⟨hvalue, by simp [Bus.read], by simp [Bus.read, Bus.clockPulse], h.busPhase, ?_, h.shown, ?_, hans, hdrawn⟩
  · rw [h.setsOf_eq, setsOf_readShown isLast (nextAnswers_length 8 u)]
  · rw [h.samplesOf_eq, samplesOf_readShown]

/-! ### O27, O28, O29: the lines that start, repeated start and stop set -/

/-- Settles O27: neither `setLine` call releases SCL, so the CLOCK agent is not asked. -/
theorem startDrivesSdaThenScl : Obligations.StartDrivesSdaThenScl := by
  intro u
  simp [Bus.start]

/-- Settles O28: the four `setLine` calls, of which the last two leave the lines; none asks the BUS agent. -/
theorem repeatedStartReleasesThenDrives : Obligations.RepeatedStartReleasesThenDrives := by
  intro u
  simp [Bus.repeatedStart]

/-- Settles O29: of the three `setLine` calls the last two leave the lines, whatever these were before. -/
theorem stopReleasesBothLines : Obligations.StopReleasesBothLines := by
  intro u
  simp [Bus.stop]

/-! ### The conditions of start, repeated start and stop -/

/-- Settles O32: the one change of SDA makes a START where it falls with SCL released. -/
theorem startConditionNeedsReleasedBus : Obligations.StartConditionNeedsReleasedBus := by
  intro u added hadded
  rw [u.start_makes.conditions_eq hadded]
  cases u.sdaOut <;> cases u.sclOut <;> rfl

/-- Settles O33: releasing SDA makes no condition with SCL low or SDA released already. -/
theorem repeatedStartMakesOneStart : Obligations.RepeatedStartMakesOneStart := by
  intro u added hadded hlines
  rw [u.repeatedStart_makes.conditions_eq hadded]
  rcases hlines with hscl | hsda
  · rw [hscl]; rfl
  · rw [hsda]; cases u.sclOut <;> rfl

/-- Settles O34: driving SDA makes a START where it falls with SCL released; the STOP follows from any state. -/
theorem stopConditionsFromHeldAndReleased : Obligations.StopConditionsFromHeldAndReleased := by
  intro u added hadded
  rw [u.stop_makes.conditions_eq hadded]
  exact ⟨fun hscl => by rw [hscl]; rfl, fun hscl hsda => by rw [hscl, hsda]; rfl⟩

end Sys2Proof.Machine
end

section
/-!
PROOFS for the statements of 42_bridge_requests.md: the dispatch of a setup packet (O7), the four stateless requests
(O10 to O13), that no request outside the I2C_IO forms writes a slot (O14), and the unsupported selectors (O15).
-/

namespace Sys2Proof.Machine

open Sys2Proof.Safety

/-! ### O7: the dispatch of a setup packet -/

/-- R150: with a setup next, the step is the setup handler's at the state that has taken it. -/
theorem step_of_setup {s : State} {r : Request} {rest : List Input} (h : s.inputs = .host (.setup r) :: rest) :
    step s = onSetup r { s with inputs := rest } :=
  step_of_cons h

/-- R150: the handler of a record that decodes is its instruction's meaning. -/
theorem onSetup_of_decodeRequest {r : Request} {i : Instr} (h : decodeRequest r = .ok i) (s : State) :
    onSetup r s = exec i s := by
  simp [onSetup, h]

/-- R70, R72: bytes that are a packet decode as its record does. -/
theorem decode_of_packetRequest {bytes : List Byte} {r : Request} (h : packetRequest bytes = .ok r) :
    decode bytes = decodeRequest r := by
  simp [decode, h]

/-- A table word's packet has the eight bytes of R70. -/
theorem packetRequest_tablePacket (nbits w : Nat) : ∃ r, packetRequest (tablePacket nbits w) = .ok r :=
  ⟨_, rfl⟩

theorem decodeTableWord_eq_some {nbits w : Nat} {i : Instr} :
    decodeTableWord nbits w = some i ↔ decode (tablePacket nbits w) = .ok i := by
  unfold decodeTableWord
  cases decode (tablePacket nbits w) <;> simp

/-- Log 11: fetching a table word is the delivery of the record its packet is. -/
theorem withFetchWord_of_packetRequest {nbits w : Nat} {r : Request} (h : packetRequest (tablePacket nbits w) = .ok r)
    (s : State) : s.withFetchWord nbits w = deliver (.host (.setup r)) s := by
  simp [State.withFetchWord, deliverPacket, h]

/-- Settles O7: a packet's bytes decode as its record does, and the record's handler is its instruction's meaning. -/
theorem stepRunsDecodedInstruction : Obligations.StepRunsDecodedInstruction := by
  constructor
  · intro s bytes r i rest hpacket hdecode hin
    rw [decode_of_packetRequest hpacket] at hdecode
    rw [step_of_setup hin, onSetup_of_decodeRequest hdecode]
  · intro s nbits w i hword
    obtain ⟨r, hpacket⟩ := packetRequest_tablePacket nbits w
    rw [decodeTableWord_eq_some, decode_of_packetRequest hpacket] at hword
    rw [withFetchWord_of_packetRequest hpacket, step_deliver]
    exact onSetup_of_decodeRequest hword s

/-! ### O10 to O13: the stateless requests -/

/-- R44: the reply bytes of a u16 are its value modulo and divided by 256. -/
theorem replyHalf_eq_ofNat (v : Half) :
    replyHalf v = [BitVec.ofNat 8 (v.toNat % 256), BitVec.ofNat 8 (v.toNat / 256)] := by
  have hlo : v.extractLsb' 0 8 = BitVec.ofNat 8 (v.toNat % 256) :=
    BitVec.eq_of_toNat_eq (by simp)
  have hhi : v.extractLsb' 8 8 = BitVec.ofNat 8 (v.toNat / 256) :=
    BitVec.eq_of_toNat_eq (by simp [Nat.shiftRight_eq_div_pow])
  rw [replyHalf, hlo, hhi]

/-- R154: the capability word's reply bytes, least significant first. -/
theorem replyWord32_capabilityWord : replyWord32 Config.capabilityWord = [0x19#8, 0x00#8, 0xFF#8, 0x0E#8] := by
  decide

/-- Settles O10: ECHO responds with the value's two reply bytes, cut to the length. -/
theorem echoRepliesValueBytes : Obligations.EchoRepliesValueBytes := by
  intro f s
  rw [← replyHalf_eq_ofNat]
  rfl

/-- Settles O11: GET_CAPABILITIES responds with the capability word's reply bytes, cut to the length. -/
theorem getCapabilitiesRepliesTheWord : Obligations.GetCapabilitiesRepliesTheWord := by
  intro f s
  rw [← replyWord32_capabilityWord]
  rfl

/-- Settles O12: SET_CLOCK_PERIOD does nothing but respond, so the statement is its meaning. -/
theorem setClockPeriodAcceptsAndDoesNothing : Obligations.SetClockPeriodAcceptsAndDoesNothing :=
  fun _ _ => rfl

/-- Settles O13: GET_STATUS does nothing but respond with the status it reads, so the statement is its meaning. -/
theorem getStatusRepliesStatusByte : Obligations.GetStatusRepliesStatusByte :=
  fun _ _ => rfl

/-! ### O14, O15: setups outside the I2C_IO forms -/

/-- R72: the selectors 0 to 3 and 8 to 255 are no I2C_IO form. -/
theorem isIoSelector_eq_false_iff {sel : Byte} : isIoSelector sel = false ↔ sel.toNat < 4 ∨ 8 ≤ sel.toNat := by
  rw [isIoSelector, decide_eq_false_iff_not]
  omega

/-- R74: the selector map refuses every selector from 8 on. -/
theorem decodeRequest_of_eight_le {r : Request} (h : 8 ≤ r.sel.toNat) :
    decodeRequest r = .error (.unsupportedRequest r.sel) := by
  obtain ⟨n, hn⟩ := Nat.exists_eq_add_of_le' h
  rw [selectorMapIsTotal r, hn]
  rfl

/-- R159: the setup handler of a selector from 8 on is the unsupported one. -/
theorem onSetup_of_eight_le {r : Request} (h : 8 ≤ r.sel.toNat) (s : State) :
    onSetup r s = .next (unsupported s) := by
  simp [onSetup, decodeRequest_of_eight_le h]

/-- Settles O14: a setup outside the I2C_IO forms only responds. -/
theorem statelessSetupsWriteNoSlot : Obligations.StatelessSetupsWriteNoSlot := by
  intro s r rest hin hsel
  rw [step_of_setup hin]
  rcases onSetup_cases r with ⟨-, a, ha⟩ | ⟨hio, -⟩
  · exact ⟨a s.status, ha _⟩
  · simp [isIoSelector_eq_false_iff.mpr hsel] at hio

/-- Settles O15: the selector map refuses the record, and the refusal's handler only raises the stall. -/
theorem unsupportedSelectorStalls : Obligations.UnsupportedSelectorStalls := by
  intro s r rest hin hsel
  rw [step_of_setup hin]
  exact onSetup_of_eight_le hsel _

end Sys2Proof.Machine
end

section
/-!
PROOFS for the statements of 43_bridge_i2c_io.md: the setup of an I2C_IO request (O16 to O20), the data stage (O21 to
O24), and that the bus is held or released between host events (O41).
-/

namespace Sys2Proof.Machine

open Sys2Proof.Safety

/-! ### What the driver's operations do to the bus

A handler is told by the lines it sets, the answers its samples take, and how it leaves the bus. -/

/-- `Drives xs n u v`: the driver went from `u` to `v` by setting the lines `xs` and sampling the BUS agent's next `n`
answers. -/
structure Bus.Drives (xs : List (Line × Level)) (n : Nat) (u v : Bus) : Prop where
  sets : setsOf v.trace = setsOf u.trace ++ xs
  samples : samplesOf v.trace = samplesOf u.trace ++ nextAnswers n u
  agent : Bus.SameAgent v (dropAnswers n u)

/-- Inside a transaction, as a handler leaves it (R193). -/
def Bus.HeldActive (u : Bus) : Prop := held u ∧ u.busPhase = .busActive

/-- Outside a transaction (R193). -/
def Bus.ReleasedIdle (u : Bus) : Prop := released u ∧ u.busPhase = .busIdle

theorem Bus.Drives.refl (u : Bus) : Bus.Drives [] 0 u u :=
  ⟨by simp, by simp [nextAnswers], rfl, rfl⟩

theorem Bus.Drives.trans {xs ys : List (Line × Level)} {m n : Nat} {u v w : Bus} (h : Bus.Drives xs m u v)
    (h' : Bus.Drives ys n v w) : Bus.Drives (xs ++ ys) (m + n) u w := by
  obtain ⟨hans, hdrawn⟩ := h.agent.dropAnswers n
  obtain ⟨hans', hdrawn'⟩ := h'.agent
  refine ⟨by rw [h'.sets, h.sets, List.append_assoc], ?_, ?_⟩
  · rw [h'.samples, h.samples, List.append_assoc, nextAnswers_add, h.agent.nextAnswers]
  · rw [dropAnswers_add]
    exact ⟨hans'.trans hans, hdrawn'.trans hdrawn⟩

theorem Bus.Shows.drives {es : List BusEvent} {n : Nat} {u v : Bus} (h : Bus.Shows es n u v)
    (hsamples : samplesOf es = nextAnswers n u) : Bus.Drives (setsOf es) n u v :=
  ⟨h.setsOf_eq, by rw [h.samplesOf_eq, hsamples], h.agent⟩

theorem Bus.start_drives (u : Bus) : Bus.Drives startSets 0 u u.start := by
  constructor <;> simp [Bus.start, startSets, nextAnswers, dropAnswers, Bus.SameAgent]

theorem Bus.repeatedStart_drives (u : Bus) : Bus.Drives repeatedStartSets 0 u u.repeatedStart := by
  constructor <;> simp [Bus.repeatedStart, repeatedStartSets, nextAnswers, dropAnswers, Bus.SameAgent]

theorem Bus.stop_drives (u : Bus) : Bus.Drives stopSets 0 u u.stop := by
  constructor <;> simp [Bus.stop, stopSets, nextAnswers, dropAnswers, Bus.SameAgent]

theorem Bus.write_drives (b : Byte) (u : Bus) : Bus.Drives (writeSets b) 1 u (u.write b).2 := by
  rw [← setsOf_writeShown b u.nextSda]
  exact (Bus.write_shows b u).drives (samplesOf_writeShown b u.nextSda)

theorem Bus.read_drives (isLast : Bool) (u : Bus) : Bus.Drives (readSets isLast) 8 u (u.read isLast).2 := by
  rw [← setsOf_readShown isLast (nextAnswers_length 8 u)]
  exact (Bus.read_shows isLast u).2.drives (samplesOf_readShown isLast _)

/-- R124: a stop releases the bus from any state. -/
theorem Bus.stop_releasedIdle (u : Bus) : u.stop.ReleasedIdle := by
  simp [Bus.ReleasedIdle, released, Bus.stop]

/-- R127: after a written byte the bus is held. -/
theorem Bus.write_heldActive (b : Byte) {u : Bus} (h : u.busPhase = .busActive) : (u.write b).2.HeldActive :=
  ⟨by simp [held, Bus.write], (Bus.write_shows b u).busPhase.trans h⟩

/-- R130: after a read byte the bus is held. -/
theorem Bus.read_heldActive (isLast : Bool) {u : Bus} (h : u.busPhase = .busActive) : (u.read isLast).2.HeldActive :=
  ⟨by simp [held, Bus.read, Bus.clockPulse], (Bus.read_shows isLast u).2.busPhase.trans h⟩

/-! ### The END stop -/

@[simp] theorem stopIfEnd_phase (s : State) : (stopIfEnd s).phase = s.phase := by
  obtain ⟨-, hphase, -⟩ := stopIfEnd_frame s
  exact hphase

@[simp] theorem stopIfEnd_pend (s : State) : (stopIfEnd s).pend = s.pend := by
  obtain ⟨-, -, hpend, -⟩ := stopIfEnd_frame s
  exact hpend

theorem stopIfEnd_drives (s : State) : Bus.Drives (closeSets s.pend.endBit) 0 s.bus (stopIfEnd s).bus := by
  unfold stopIfEnd
  cases s.pend.endBit with
  | true => exact s.bus.stop_drives
  | false => exact .refl _

theorem stopIfEnd_ends {s : State} (h : s.bus.HeldActive) :
    if s.pend.endBit = true then (stopIfEnd s).bus.ReleasedIdle else (stopIfEnd s).bus.HeldActive := by
  unfold stopIfEnd
  cases s.pend.endBit with
  | true => exact s.bus.stop_releasedIdle
  | false => exact h

/-! ### The setup and its address phase -/

/-- R171: the model's operand fields are those of the request's values. -/
theorem openTransfer_pend (b e : Bool) (f : SetupFields) (s : State) :
    (openTransfer b e f s).pend = createdPending b e f := by
  have hdir : dirOperand f = if f.value.toNat % 2 = 1 then .read else .write := by
    rw [dirOperand, ← getLsbD_zero_toNat]
    cases f.value.getLsbD 0 <;> rfl
  have haddr : addrOperand f = BitVec.ofNat 7 f.index.toNat := BitVec.eq_of_toNat_eq (by simp [addrOperand])
  rw [openTransfer, createdPending, hdir, haddr]
  rfl

/-- R78: the address byte of the created transfer. -/
theorem addressByte_createdPending (b e : Bool) (f : SetupFields) :
    addressByte (createdPending b e f).addr (createdPending b e f).dir = wireAddress f := by
  obtain ⟨hbyte, -⟩ := addressByteIsAddressThenDirection f
  rw [← openTransfer_pend b e f State.reset]
  exact BitVec.eq_of_toNat_eq (hbyte.trans (by simp [wireAddress]))

/-- R172: the opening, then the address byte with its one sample. -/
theorem addressPhase_drives (s : State) :
    Bus.Drives (openSets s.pend.beginBit ++ writeSets (addressByte s.pend.addr s.pend.dir)) 1 s.bus
      (addressPhase s).2.bus := by
  unfold addressPhase
  cases s.pend.beginBit with
  | true => exact s.bus.start_drives.trans (Bus.write_drives _ _)
  | false => exact s.bus.repeatedStart_drives.trans (Bus.write_drives _ _)

theorem addressPhase_heldActive (s : State) : (addressPhase s).2.bus.HeldActive := by
  unfold addressPhase
  cases s.pend.beginBit with
  | true => exact Bus.write_heldActive _ s.bus.start_active.2
  | false => exact Bus.write_heldActive _ s.bus.repeatedStart_active.2

/-- The machine once a setup has made its address phase. -/
def addressed (b e : Bool) (f : SetupFields) (s : State) : State := (addressPhase (openTransfer b e f s)).2

theorem addressed_pend (b e : Bool) (f : SetupFields) (s : State) :
    (addressed b e f s).pend = createdPending b e f :=
  openTransfer_pend b e f s

theorem addressed_drives (b e : Bool) (f : SetupFields) (s : State) :
    Bus.Drives (openSets b ++ writeSets (wireAddress f)) 1 s.bus (addressed b e f s).bus := by
  have h := addressPhase_drives (openTransfer b e f s)
  rw [openTransfer_pend, addressByte_createdPending] at h
  exact h

/-- The machine once that address phase is acknowledged (R172). -/
def acked (b e : Bool) (f : SetupFields) (s : State) : State :=
  { addressed b e f s with status := addressStatus true }

theorem acked_pend (b e : Bool) (f : SetupFields) (s : State) :
    (acked b e f s).pend = createdPending b e f :=
  addressed_pend b e f s

theorem acked_len (b e : Bool) (f : SetupFields) (s : State) : (acked b e f s).pend.len = f.length := rfl

theorem acked_done (b e : Bool) (f : SetupFields) (s : State) : (acked b e f s).pend.done.toNat = 0 := rfl

theorem acked_endBit (b e : Bool) (f : SetupFields) (s : State) : (acked b e f s).pend.endBit = e := rfl

theorem acked_drives (b e : Bool) (f : SetupFields) (s : State) :
    Bus.Drives (openSets b ++ writeSets (wireAddress f)) 1 s.bus (acked b e f s).bus :=
  addressed_drives b e f s

theorem acked_heldActive (b e : Bool) (f : SetupFields) (s : State) : (acked b e f s).bus.HeldActive :=
  addressPhase_heldActive _

/-- R170: by the acknowledge, an I2C_IO setup ends the transfer or goes on with it. -/
theorem ioSetup_of_nack (b e : Bool) (f : SetupFields) {s : State} (h : s.bus.nextSda = .high) :
    ioSetup b e f s = addressNacked (addressed b e f s) := by
  have hack : (addressPhase (openTransfer b e f s)).1 = ackFlag s.bus.nextSda := addressPhase_ack _
  rw [ioSetup, hack, h]
  rfl

theorem ioSetup_of_ack (b e : Bool) (f : SetupFields) {s : State} (h : s.bus.nextSda = .low) :
    ioSetup b e f s = addressAcked (addressed b e f s) := by
  have hack : (addressPhase (openTransfer b e f s)).1 = ackFlag s.bus.nextSda := addressPhase_ack _
  rw [ioSetup, hack, h]
  rfl

/-- R75: the direction of the created transfer. -/
theorem createdPending_dir (b e : Bool) (f : SetupFields) :
    (createdPending b e f).dir = if isRead f = true then .read else .write := by
  simp [createdPending, isRead]

/-- R174: a request of length 0 ends with its address phase, and its END stop. -/
theorem ioSetup_of_ack_zero (b e : Bool) {f : SetupFields} {s : State} (h : s.bus.nextSda = .low)
    (hlen : f.length = 0#16) : ioSetup b e f s = State.respond .accept (stopIfEnd (acked b e f s)) := by
  have hpend : (addressed b e f s).pend.len = 0#16 := hlen
  rw [ioSetup_of_ack b e f h, addressAcked, if_pos hpend]
  rfl

/-- R181: a write waits for its first chunk. -/
theorem ioSetup_of_ack_write (b e : Bool) {f : SetupFields} {s : State} (h : s.bus.nextSda = .low)
    (hlen : f.length ≠ 0#16) (hwrite : isRead f = false) :
    ioSetup b e f s =
      State.respond (.expect (min 64 f.length.toNat)) { acked b e f s with phase := .outWait } := by
  have hpend : (addressed b e f s).pend.len ≠ 0#16 := hlen
  have hdir : (addressed b e f s).pend.dir = .write := by rw [addressed_pend, createdPending_dir, hwrite]; rfl
  rw [ioSetup_of_ack b e f h, addressAcked, if_neg hpend]
  dsimp only
  rw [hdir]
  rfl

/-- R175: a read goes on with its first chunk. -/
theorem ioSetup_of_ack_read (b e : Bool) {f : SetupFields} {s : State} (h : s.bus.nextSda = .low)
    (hlen : f.length ≠ 0#16) (hread : isRead f = true) : ioSetup b e f s = readChunk (acked b e f s) := by
  have hpend : (addressed b e f s).pend.len ≠ 0#16 := hlen
  have hdir : (addressed b e f s).pend.dir = .read := by rw [addressed_pend, createdPending_dir, hread]; rfl
  rw [ioSetup_of_ack b e f h, addressAcked, if_neg hpend]
  dsimp only
  rw [hdir]
  rfl

/-- The one sample of an address phase. -/
theorem nextAnswers_one {u : Bus} {d : Level} (h : u.nextSda = d) : nextAnswers 1 u = [d] := by
  simp [nextAnswers, h]

/-! ### O16: an address NACK -/

/-- Settles O16: after the address phase the handler only stops the bus, sets the status and raises the stall. -/
theorem addressNackAborts : Obligations.AddressNackAborts := by
  intro mk b e f s hform hnack
  have hexec := exec_of_mem_ioForms hform f s
  have hdelays := (ioSetup_reaches b e f s).delays
  have hdrives := (addressed_drives b e f s).trans (Bus.stop_drives _)
  obtain ⟨hreleased, hidle⟩ := (addressed b e f s).bus.stop_releasedIdle
  rw [ioSetup_of_nack b e f hnack] at hexec hdelays
  refine ⟨_, hexec, rfl, rfl, addressed_pend b e f s, hreleased, hidle, ?_, ?_, rfl, rfl, rfl, hdelays⟩
  · exact hdrives.sets.trans (by simp)
  · rw [← nextAnswers_one hnack]
    exact hdrives.samples

/-! ### O17, O18: the acknowledged requests that move no byte yet -/

/-- Settles O17: after the address phase the handler only sets the status, makes the END stop and accepts. -/
theorem zeroLengthRequestAccepts : Obligations.ZeroLengthRequestAccepts := by
  intro mk b e f s hform hack hlen
  have hexec := exec_of_mem_ioForms hform f s
  have hdelays := (ioSetup_reaches b e f s).delays
  have hdrives := (acked_drives b e f s).trans (stopIfEnd_drives _)
  have hends := stopIfEnd_ends (acked_heldActive b e f s)
  rw [ioSetup_of_ack_zero b e hack hlen] at hexec hdelays
  rw [acked_endBit] at hdrives hends
  refine ⟨_, hexec, stopIfEnd_status _, stopIfEnd_phase _, (stopIfEnd_pend _).trans (acked_pend b e f s), hends, ?_,
    ?_, congrArg (fun rs => rs ++ [Response.accept]) (stopIfEnd_responses _), stopIfEnd_buf _, stopIfEnd_inputs _,
    hdelays⟩
  · exact hdrives.sets.trans (by simp)
  · rw [← nextAnswers_one hack]
    exact hdrives.samples

/-- Settles O18: after the address phase the handler only sets the status, opens the data stage and asks for the
chunk. -/
theorem writeSetupExpectsFirstChunk : Obligations.WriteSetupExpectsFirstChunk := by
  intro mk b e f s hform hack hlen hwrite
  have hexec := exec_of_mem_ioForms hform f s
  have hdelays := (ioSetup_reaches b e f s).delays
  have hdrives := acked_drives b e f s
  obtain ⟨hheld, hactive⟩ := acked_heldActive b e f s
  rw [ioSetup_of_ack_write b e hack hlen hwrite] at hexec hdelays
  refine ⟨_, hexec, rfl, rfl, acked_pend b e f s, hheld, hactive, ?_, ?_, rfl, rfl, rfl, hdelays⟩
  · exact hdrives.sets.trans (by simp)
  · rw [← nextAnswers_one hack]
    exact hdrives.samples

/-! ### O20: a pending transfer is discarded -/

/-- Settles O20: the setup overwrites the phase and every field of the pending transfer before it reads one. -/
theorem newSetupDiscardsPendingTransfer : Obligations.NewSetupDiscardsPendingTransfer := by
  intro mk b e f s p q hform
  rw [exec_of_mem_ioForms hform, exec_of_mem_ioForms hform]
  rfl

/-! ### O24: unexpected events -/

theorem onDataIn_of_ne {s : State} (h : s.phase ≠ .inMore) : onDataIn s = s.raiseStall .noDataStage := by
  unfold onDataIn
  cases hp : s.phase with
  | inMore => exact absurd hp h
  | idle => rfl
  | outWait => rfl

theorem onDataOut_of_ne (bytes : List Byte) {s : State} (h : s.phase ≠ .outWait) :
    onDataOut bytes s = s.raiseStall .noDataStage := by
  unfold onDataOut
  cases hp : s.phase with
  | outWait => exact absurd hp h
  | idle => rfl
  | inMore => rfl

/-- Settles O24: each of the three handlers only responds. -/
theorem unexpectedEventsWriteNothing : Obligations.UnexpectedEventsWriteNothing := by
  refine ⟨fun s rest hin hphase => ?_, fun s bytes rest hin hphase => ?_, fun s rest hin => ?_⟩
  · rw [step_of_cons hin]
    exact congrArg Host.Outcome.next (onDataIn_of_ne (s := { s with inputs := rest }) hphase)
  · rw [step_of_cons hin]
    exact congrArg Host.Outcome.next (onDataOut_of_ne bytes (s := { s with inputs := rest }) hphase)
  · rw [step_of_cons hin]
    rfl

/-! ### The chunk in the staging buffer -/

/-- The buffer of `t` is that of `s` with the first `n` of the bytes `bs` at the indexes `0 .. n-1`. -/
def ChunkStored (n : Nat) (bs : List Byte) (s t : State) : Prop :=
  (∀ k : Fin Config.cap, k.val < n → bs[k.val]? = some (t.memRead k)) ∧
    ∀ k : Fin Config.cap, n ≤ k.val → t.memRead k = s.memRead k

theorem ChunkStored.congr {n : Nat} {bs : List Byte} {s s' t t' : State} (h : ChunkStored n bs s t)
    (hs : s'.buf = s.buf) (ht : t'.buf = t.buf) : ChunkStored n bs s' t' := by
  unfold ChunkStored State.memRead
  rw [hs, ht]
  exact h

/-- The copy loop of R182 stores its chunk. -/
theorem storeOver_chunkStored {n : Nat} {bs : List Byte} {s : State} (hn : n ≤ Config.cap) (hbs : n ≤ bs.length)
    (hw : Memory.wf s.buf) : ChunkStored n bs s (storeOver (indexes n) bs s) := by
  rw [indexes_eq_indexesFrom]
  have hloop := storeOver_memRead n 0 bs (by omega) hbs hw
  exact ⟨fun k hk => (hloop k).1 (Nat.zero_le _) (by omega), fun k hk => (hloop k).2 (.inr (by omega))⟩

/-- The indexes of a chunk count up from 0. -/
theorem indexes_getElem? {n : Nat} {k : Fin Config.cap} (hn : n ≤ Config.cap) (hk : k.val < n) :
    (indexes n)[k.val]? = some k := by
  have h := congrArg (fun ks => ks[k.val]?) (indexesFrom_val (k := 0) (n := n) (by omega))
  simpa [← indexes_eq_indexesFrom, hk, Fin.val_inj] using h

/-- Reading a stored chunk back gives its bytes. -/
theorem ChunkStored.map_memRead {n : Nat} {bs : List Byte} {s t : State} (h : ChunkStored n bs s t)
    (hn : n ≤ Config.cap) : (indexes n).map (fun k => t.memRead k) = bs.take n := by
  obtain ⟨hstored, -⟩ := h
  refine List.ext_getElem? fun i => ?_
  rw [List.getElem?_map]
  rcases Nat.lt_or_ge i n with hi | hi
  · have hindex := indexes_getElem? (k := ⟨i, by omega⟩) hn hi
    rw [List.getElem?_take_of_lt hi, hstored ⟨i, by omega⟩ hi, hindex]
    rfl
  · rw [List.getElem?_eq_none (by rwa [indexes_length hn]), List.getElem?_take_eq_none hi]
    rfl

/-! ### The read loop -/

theorem Bus.SameAgent.nextBytes {u v : Bus} (h : Bus.SameAgent u v) (n : Nat) : nextBytes n u = nextBytes n v := by
  rw [Safety.nextBytes, Safety.nextBytes, h.nextAnswers]

/-- One turn of the loop of R176: a byte from the bus to the buffer index `k`. -/
def readByte (k : Fin Config.cap) (s : State) : State :=
  let r := s.bus.read (s.pend.done.toNat + k.val + 1 == s.pend.len.toNat)
  State.memWrite k r.1 { s with bus := r.2 }

/-- R177: a byte is acknowledged unless it is the last of the transfer. -/
theorem readByte_drives (k : Fin Config.cap) (s : State) :
    Bus.Drives (readSets (decide (s.pend.done.toNat + k.val + 1 = s.pend.len.toNat))) 8 s.bus (readByte k s).bus := by
  rw [← beq_eq_decide]
  exact Bus.read_drives _ s.bus

theorem readByte_heldActive (k : Fin Config.cap) {s : State} (h : s.bus.busPhase = .busActive) :
    (readByte k s).bus.HeldActive :=
  Bus.read_heldActive _ h

/-- The read loop of R176 stores the bytes it reads as the copy loop of R182 stores a payload. -/
theorem readOver_eq_storeOver (ks : List (Fin Config.cap)) (s : State) :
    readOver ks s = storeOver ks (nextBytes ks.length s.bus) { s with bus := (readOver ks s).bus } := by
  induction ks generalizing s with
  | nil => simp [readOver, storeOver]
  | cons k ks ih =>
    have hvalue := (Bus.read_shows (s.pend.done.toNat + k.val + 1 == s.pend.len.toNat) s.bus).1
    rw [List.length_cons, nextBytes_succ, ← (readByte_drives k s).agent.nextBytes, ← hvalue]
    exact ih (readByte k s)

theorem readOver_drives (ks : List (Fin Config.cap)) (s : State) :
    Bus.Drives (ks.flatMap fun k => readSets (decide (s.pend.done.toNat + k.val + 1 = s.pend.len.toNat)))
      (8 * ks.length) s.bus (readOver ks s).bus := by
  induction ks generalizing s with
  | nil => exact .refl _
  | cons k ks ih =>
    rw [List.flatMap_cons, List.length_cons, Nat.mul_succ, Nat.add_comm _ 8]
    exact (readByte_drives k s).trans (ih (readByte k s))

theorem readOver_heldActive (ks : List (Fin Config.cap)) {s : State} (h : s.bus.HeldActive) :
    (readOver ks s).bus.HeldActive := by
  induction ks generalizing s with
  | nil => exact h
  | cons k ks ih => exact ih (readByte_heldActive k h.2)

/-- A read of at least one byte leaves the bus held, whatever the lines were. -/
theorem readOver_heldActive_of_ne_nil {ks : List (Fin Config.cap)} {s : State} (hks : ks ≠ [])
    (h : s.bus.busPhase = .busActive) : (readOver ks s).bus.HeldActive := by
  cases ks with
  | nil => exact absurd rfl hks
  | cons k ks => exact readOver_heldActive ks (readByte_heldActive k h)

theorem readAllSets_eq_flatMap_indexes {n : Nat} (done len : Nat) (hn : n ≤ Config.cap) :
    readAllSets done len n = (indexes n).flatMap fun k => readSets (decide (done + k.val + 1 = len)) := by
  rw [readAllSets, List.range_eq_range', ← indexesFrom_val (by omega), List.flatMap_map, indexes_eq_indexesFrom]

/-! ### The end of a chunk -/

/-- The pending transfer with `n` more bytes moved. -/
def Pending.advance (n : Nat) (p : Pending) : Pending := { p with done := p.done + BitVec.ofNat 16 n }

theorem Pending.advance_eq (n : Nat) (p : Pending) :
    p.advance n = { p with done := BitVec.ofNat 16 (p.done.toNat + n) } := by
  simp [Pending.advance, BitVec.ofNat_add]

theorem Pending.advance_advance (m n : Nat) (p : Pending) : (p.advance m).advance n = p.advance (m + n) := by
  simp [Pending.advance, BitVec.ofNat_add, BitVec.add_assoc]

theorem Pending.advance_done_toNat {n : Nat} {p : Pending} (h : p.done.toNat + n ≤ p.len.toNat) :
    (p.advance n).done.toNat = p.done.toNat + n := by
  rw [Pending.advance_eq, BitVec.toNat_ofNat]
  exact Nat.mod_eq_of_lt (h.trans_lt p.len.isLt)

theorem Pending.advance_done_eq_len {n : Nat} {p : Pending} (h : p.done.toNat + n ≤ p.len.toNat) :
    (p.advance n).done = (p.advance n).len ↔ p.done.toNat + n = p.len.toNat := by
  rw [← BitVec.toNat_inj, Pending.advance_done_toNat h]
  rfl

theorem chunkSize_advance {n : Nat} {p : Pending} (h : p.done.toNat + n ≤ p.len.toNat) :
    chunkSize (p.advance n) = min 64 (p.len.toNat - p.done.toNat - n) := by
  rw [chunkSize, Pending.advance_done_toNat h, Nat.sub_sub]
  rfl

/-- R178 and R184 alike: the transfer is over, with its END stop, or its phase says that more is to come. -/
def closeChunk (waiting : Phase) (s : State) : State :=
  if s.pend.done = s.pend.len then { stopIfEnd s with phase := .idle } else { s with phase := waiting }

theorem advanceRead_eq_closeChunk (n : Nat) (s : State) :
    advanceRead n s = closeChunk .inMore { s with pend := s.pend.advance n } := rfl

theorem chunkWritten_eq_closeChunk {s : State} (h : s.phase = .outWait) :
    chunkWritten s =
      State.respond (if s.pend.done = s.pend.len then .accept else .expect (chunkSize s.pend))
        (closeChunk .outWait s) := by
  unfold chunkWritten closeChunk
  split
  · rfl
  · rw [← h]

theorem closeChunk_responses (waiting : Phase) (s : State) : (closeChunk waiting s).responses = s.responses := by
  unfold closeChunk
  split <;> simp

/-- From `s` to `t` the pending transfer moved a chunk of `n` bytes, by the lines `xs` and `k` samples, and was closed
with the whole length (R178, R180, R184). -/
structure MovesChunk (n : Nat) (waiting : Phase) (xs : List (Line × Level)) (k : Nat) (s t : State) : Prop where
  phase : t.phase = if s.pend.done.toNat + n = s.pend.len.toNat then .idle else waiting
  pend : t.pend = s.pend.advance n
  ends : if s.pend.done.toNat + n = s.pend.len.toNat ∧ s.pend.endBit = true then t.bus.ReleasedIdle
    else t.bus.HeldActive
  drives : Bus.Drives (xs ++ if s.pend.done.toNat + n = s.pend.len.toNat then closeSets s.pend.endBit else []) k
    s.bus t.bus

theorem MovesChunk.respond {n : Nat} {waiting : Phase} {xs : List (Line × Level)} {k : Nat} {s t : State}
    (r : Response) (h : MovesChunk n waiting xs k s t) : MovesChunk n waiting xs k s (t.respond r) :=
  ⟨h.phase, h.pend, h.ends, h.drives⟩

/-- A chunk whose bytes are moved is closed by `closeChunk`. -/
theorem closeChunk_movesChunk {n : Nat} (waiting : Phase) {xs : List (Line × Level)} {k : Nat} {s s' : State}
    (hpend : s'.pend = s.pend.advance n) (hle : s.pend.done.toNat + n ≤ s.pend.len.toNat)
    (hbus : s'.bus.HeldActive) (hdrives : Bus.Drives xs k s.bus s'.bus) :
    MovesChunk n waiting xs k s (closeChunk waiting s') := by
  have hlast := Pending.advance_done_eq_len hle
  have hend : s'.pend.endBit = s.pend.endBit := by rw [hpend]; rfl
  rw [← hpend] at hlast
  unfold closeChunk
  by_cases h : s.pend.done.toNat + n = s.pend.len.toNat
  · have hstop := hdrives.trans (stopIfEnd_drives s')
    have hends := stopIfEnd_ends hbus
    rw [hend] at hstop hends
    rw [if_pos (hlast.mpr h)]
    exact ⟨by simp [h], by simpa using hpend, by simpa [h] using hends, by simpa [h] using hstop⟩
  · rw [if_neg (mt hlast.mp h)]
    exact ⟨by simp [h], hpend, by simpa [h] using hbus, by simpa [h] using hdrives⟩

/-! ### O19, O21: the read chunk -/

theorem chunkSize_eq (p : Pending) : chunkSize p = min 64 (p.len.toNat - p.done.toNat) := rfl

theorem done_add_chunkSize_le {p : Pending} (h : p.done.toNat < p.len.toNat) :
    p.done.toNat + chunkSize p ≤ p.len.toNat := by
  rw [chunkSize_eq]
  omega

/-- R176 to R180: a read chunk moves its bytes, hands over what it read, and stores that. -/
theorem readChunk_movesChunk {s : State} {n : Nat} (hleft : s.pend.done.toNat < s.pend.len.toNat)
    (hbus : s.bus.busPhase = .busActive) (hn : n = chunkSize s.pend) :
    MovesChunk n .inMore (readAllSets s.pend.done.toNat s.pend.len.toNat n) (8 * n) s (readChunk s) := by
  subst hn
  have hcap := chunkSize_le_cap s.pend
  have hlen := indexes_length hcap
  have hks : indexes (chunkSize s.pend) ≠ [] := by
    rw [← List.length_pos_iff, hlen, chunkSize_eq]
    omega
  have hdrives := readOver_drives (indexes (chunkSize s.pend)) s
  rw [← readAllSets_eq_flatMap_indexes _ _ hcap, hlen] at hdrives
  obtain ⟨-, -, hpend, -⟩ := readOver_frame (indexes (chunkSize s.pend)) s
  rw [readChunk, advanceRead_eq_closeChunk]
  refine MovesChunk.respond _ (closeChunk_movesChunk .inMore ?_ (done_add_chunkSize_le hleft) ?_ hdrives)
  · exact congrArg (Pending.advance _) hpend
  · exact readOver_heldActive_of_ne_nil hks hbus

theorem readChunk_chunkStored {s : State} {n : Nat} (hw : Memory.wf s.buf) (hn : n = chunkSize s.pend) :
    ChunkStored n (nextBytes n s.bus) s (readChunk s) ∧
      (readChunk s).responses = s.responses ++ [.reply (nextBytes n s.bus)] := by
  subst hn
  have hcap := chunkSize_le_cap s.pend
  have hloop : ChunkStored (chunkSize s.pend) (nextBytes (chunkSize s.pend) s.bus) s
      (readOver (indexes (chunkSize s.pend)) s) := by
    rw [readOver_eq_storeOver, indexes_length hcap]
    exact (storeOver_chunkStored (s := { s with bus := (readOver (indexes (chunkSize s.pend)) s).bus }) hcap
      (nextBytes_length _ _).ge hw).congr rfl rfl
  have hstored := hloop.congr (s' := s) (t' := readChunk s) rfl (by simp [readChunk])
  refine ⟨hstored, ?_⟩
  obtain ⟨-, -, -, hresp, -⟩ := readOver_frame (indexes (chunkSize s.pend)) s
  have hreply := hstored.map_memRead hcap
  rw [List.take_of_length_le (nextBytes_length _ _).le] at hreply
  rw [← hreply, ← hresp]
  simp [readChunk, State.memRead]

theorem readChunk_inputs (s : State) : (readChunk s).inputs = s.inputs := by
  obtain ⟨_, _, _, hin⟩ := readChunk_respondsOnce s
  exact hin

/-- Settles O19: the first chunk follows the address phase, which took one answer of the BUS agent. -/
theorem readSetupRepliesFirstChunk : Obligations.ReadSetupRepliesFirstChunk := by
  intro mk b e f s n bytes hform hack hlen hread hw hn hbytes
  have hexec := exec_of_mem_ioForms hform f s
  have hdelays := (ioSetup_reaches b e f s).delays
  rw [ioSetup_of_ack_read b e hack hlen hread] at hexec hdelays
  have hleft : (acked b e f s).pend.done.toNat < (acked b e f s).pend.len.toNat := by
    rw [acked_done, acked_len]
    bv_omega
  have hmoves := readChunk_movesChunk hleft (acked_heldActive b e f s).2 hn
  obtain ⟨⟨hstored, hkept⟩, hresp⟩ := readChunk_chunkStored (s := acked b e f s) hw hn
  have hagent : Bus.SameAgent (acked b e f s).bus s.bus.dropSda := (acked_drives b e f s).agent
  rw [hagent.nextBytes, ← hbytes] at hresp hstored
  have hdrives := (acked_drives b e f s).trans hmoves.drives
  have hphase := hmoves.phase
  have hends := hmoves.ends
  rw [acked_done, acked_len, acked_endBit, Nat.zero_add] at hdrives hends
  rw [acked_done, acked_len, Nat.zero_add] at hphase
  refine ⟨_, hexec, readChunk_status _, hphase, ?_, hends, ?_, ?_, hresp, hstored, hkept, readChunk_inputs _,
    hdelays⟩
  · rw [hmoves.pend, Pending.advance_eq, acked_done, acked_pend, Nat.zero_add]
  · exact hdrives.sets.trans (by simp)
  · rw [hdrives.samples, nextAnswers_add, nextAnswers_one hack, List.append_assoc]
    rfl

/-- Settles O21: the step is the read chunk of the state that has taken the event. -/
theorem dataInRepliesNextChunk : Obligations.DataInRepliesNextChunk := by
  intro s rest n bytes hin hphase hleft hbus hw hn hbytes
  have hstep : step s = .next (readChunk { s with inputs := rest }) := by
    rw [step_of_cons hin]
    simp [handleInput, onDataIn, hphase]
  have hmoves := readChunk_movesChunk (s := { s with inputs := rest }) hleft hbus hn
  obtain ⟨⟨hstored, hkept⟩, hresp⟩ := readChunk_chunkStored (s := { s with inputs := rest }) hw hn
  subst hbytes
  refine ⟨_, hstep, readChunk_status _, hmoves.phase, hmoves.pend.trans (Pending.advance_eq _ _), hmoves.ends, ?_,
    hmoves.drives.samples, hresp, hstored, hkept, readChunk_inputs _, (step_reaches hin hstep).delays⟩
  exact hmoves.drives.sets.trans (by simp)

/-! ### The write loop -/

/-- The machine after every byte at the indexes `ks` is written, acknowledged or not. -/
def writeAll : List (Fin Config.cap) → State → State
  | [], s => s
  | k :: ks, s => writeAll ks (writeByte k s).2

/-- R127: the bytes go out in order, each with one sample. -/
theorem writeAll_drives (ks : List (Fin Config.cap)) (s : State) :
    Bus.Drives (writeAllSets (ks.map fun k => s.memRead k)) ks.length s.bus (writeAll ks s).bus := by
  induction ks generalizing s with
  | nil => exact .refl _
  | cons k ks ih =>
    rw [List.length_cons, Nat.add_comm _ 1]
    exact (Bus.write_drives (s.memRead k) s.bus).trans (ih (writeByte k s).2)

theorem writeAll_pend (ks : List (Fin Config.cap)) (s : State) : (writeAll ks s).pend = s.pend.advance ks.length := by
  induction ks generalizing s with
  | nil => simp [writeAll, Pending.advance]
  | cons k ks ih =>
    rw [writeAll, ih, List.length_cons, Nat.add_comm, ← Pending.advance_advance]
    rfl

theorem writeAll_heldActive (ks : List (Fin Config.cap)) {s : State} (h : s.bus.HeldActive) :
    (writeAll ks s).bus.HeldActive := by
  induction ks generalizing s with
  | nil => exact h
  | cons k ks ih => exact ih (s := (writeByte k s).2) (Bus.write_heldActive _ h.2)

theorem writeByte_ack (k : Fin Config.cap) (s : State) : (writeByte k s).1 = ackFlag s.bus.nextSda :=
  Bus.write_ack _ _

/-- The answers to the bytes after the first. -/
theorem writeByte_nextAnswers (k : Fin Config.cap) (s : State) (n : Nat) :
    nextAnswers n (writeByte k s).2.bus = nextAnswers n s.bus.dropSda :=
  (Bus.write_drives (s.memRead k) s.bus).agent.nextAnswers n

/-- R183: with every answer LOW the loop writes every byte. -/
theorem writeOver_of_acked {ks : List (Fin Config.cap)} {s : State}
    (h : nextAnswers ks.length s.bus = List.replicate ks.length .low) : writeOver ks s = (true, writeAll ks s) := by
  induction ks generalizing s with
  | nil => rfl
  | cons k ks ih =>
    obtain ⟨hack, hrest⟩ := List.cons.inj h
    rw [writeOver, writeByte_ack, hack]
    exact ih ((writeByte_nextAnswers k s _).trans hrest)

/-- R183, R212: the loop ends after the first byte whose answer is HIGH. -/
theorem writeOver_of_nacked {ks : List (Fin Config.cap)} {s : State} {j : Nat} (hj : j < ks.length)
    (h : nextAnswers (j + 1) s.bus = List.replicate j .low ++ [.high]) :
    writeOver ks s = (false, writeAll (ks.take (j + 1)) s) := by
  induction ks generalizing s j with
  | nil => cases hj
  | cons k ks ih =>
    rw [writeOver, writeByte_ack]
    cases j with
    | zero =>
      obtain ⟨hnack, -⟩ := List.cons.inj h
      rw [hnack]
      rfl
    | succ j =>
      obtain ⟨hack, hrest⟩ := List.cons.inj h
      rw [hack]
      exact ih (Nat.lt_of_succ_lt_succ hj) ((writeByte_nextAnswers k s _).trans hrest)

/-! ### O22, O23: the write chunk -/

/-- How many bytes of a payload a chunk uses (R182, R185). -/
def usedBytes (payload : List Byte) (p : Pending) : Nat := min payload.length (chunkSize p)

/-- The machine that has taken a payload into its buffer (R182). -/
def payloadStored (payload : List Byte) (s : State) : State :=
  storeOver (indexes (usedBytes payload s.pend)) payload s

/-- The machine that has answered a payload (R182, R183). -/
def payloadWritten (payload : List Byte) (s : State) : State :=
  writeChunk (usedBytes payload s.pend) (payloadStored payload s)

theorem step_of_dataOut {s : State} {payload : List Byte} {rest : List Input}
    (hin : s.inputs = .host (.dataOut payload) :: rest) (hphase : s.phase = .outWait) :
    step s = .next (payloadWritten payload { s with inputs := rest }) := by
  rw [step_of_cons hin]
  simp [handleInput, onDataOut, hphase, usedBytes, payloadStored, payloadWritten]

theorem usedBytes_le_cap (payload : List Byte) (p : Pending) : usedBytes payload p ≤ Config.cap :=
  (Nat.min_le_right _ _).trans (chunkSize_le_cap p)

theorem done_add_usedBytes_le (payload : List Byte) {p : Pending} (h : p.done.toNat < p.len.toNat) :
    p.done.toNat + usedBytes payload p ≤ p.len.toNat :=
  (Nat.add_le_add_left (Nat.min_le_right _ _) _).trans (done_add_chunkSize_le h)

theorem payloadStored_chunkStored (payload : List Byte) {s : State} (hw : Memory.wf s.buf) :
    ChunkStored (usedBytes payload s.pend) payload s (payloadStored payload s) :=
  storeOver_chunkStored (usedBytes_le_cap payload s.pend) (Nat.min_le_left _ _) hw

/-- Acknowledged or not, the payload is in the buffer and the other slots are kept. -/
theorem payloadWritten_frame (payload : List Byte) {s : State} (hleft : s.pend.done.toNat < s.pend.len.toNat)
    (hw : Memory.wf s.buf) :
    (payloadWritten payload s).status = s.status ∧ (payloadWritten payload s).inputs = s.inputs ∧
      ChunkStored (usedBytes payload s.pend) payload s (payloadWritten payload s) := by
  obtain ⟨-, hstatus, -, hpend, -, hin⟩ := storeOver_frame (indexes (usedBytes payload s.pend)) payload s
  rw [← payloadStored] at hstatus hpend hin
  obtain ⟨_, -, -, hin'⟩ := writeChunk_respondsOnce (m := usedBytes payload s.pend) (s := payloadStored payload s)
    (by rw [hpend]; exact Nat.min_le_right _ _) (by rwa [hpend])
  refine ⟨(writeChunk_status _ _).trans hstatus, hin'.trans hin, ?_⟩
  exact (payloadStored_chunkStored payload hw).congr rfl (writeChunk_buf _ _)

/-- The first `n` bytes of the payload go onto the bus, counted in `pend.done`. -/
theorem writeAll_payloadStored (payload : List Byte) {s : State} {n : Nat} (hw : Memory.wf s.buf)
    (hn : n ≤ usedBytes payload s.pend) :
    Bus.Drives (writeAllSets (payload.take n)) n s.bus
        (writeAll ((indexes (usedBytes payload s.pend)).take n) (payloadStored payload s)).bus ∧
      (writeAll ((indexes (usedBytes payload s.pend)).take n) (payloadStored payload s)).pend = s.pend.advance n := by
  have hcap := usedBytes_le_cap payload s.pend
  have hlen : ((indexes (usedBytes payload s.pend)).take n).length = n := by
    rw [List.length_take, indexes_length hcap, Nat.min_eq_left hn]
  have hbytes := (payloadStored_chunkStored payload hw).map_memRead hcap
  obtain ⟨hbus, -, -, hpend, -⟩ := storeOver_frame (indexes (usedBytes payload s.pend)) payload s
  rw [← payloadStored] at hbus hpend
  have hdrives := writeAll_drives ((indexes (usedBytes payload s.pend)).take n) (payloadStored payload s)
  rw [List.map_take, hbytes, List.take_take, Nat.min_eq_left hn, hlen, hbus] at hdrives
  exact ⟨hdrives, by rw [writeAll_pend, hlen, hpend]⟩

/-- R183, R184: with every byte acknowledged the chunk is moved, and the response is by what is left. -/
theorem payloadWritten_of_acked {payload : List Byte} {s : State} {m : Nat} (hm : m = usedBytes payload s.pend)
    (hphase : s.phase = .outWait) (hleft : s.pend.done.toNat < s.pend.len.toNat) (hbus : s.bus.HeldActive)
    (hw : Memory.wf s.buf) (hack : nextAnswers m s.bus = List.replicate m .low) :
    MovesChunk m .outWait (writeAllSets (payload.take m)) m s (payloadWritten payload s) ∧
      (payloadWritten payload s).responses =
        s.responses ++
          [if s.pend.done.toNat + m = s.pend.len.toNat then .accept
            else .expect (min 64 (s.pend.len.toNat - s.pend.done.toNat - m))] := by
  have hlen := indexes_length (usedBytes_le_cap payload s.pend)
  have hle := done_add_usedBytes_le payload hleft
  obtain ⟨hsame, -, hphase', -, hresp, -⟩ := storeOver_frame (indexes (usedBytes payload s.pend)) payload s
  obtain ⟨hdrives, hpend⟩ := writeAll_payloadStored payload hw le_rfl
  rw [List.take_of_length_le hlen.le] at hdrives hpend
  rw [← payloadStored] at hsame hphase' hresp
  subst hm
  have hover := writeOver_of_acked (ks := indexes (usedBytes payload s.pend)) (s := payloadStored payload s)
    (by rwa [hlen, hsame])
  obtain ⟨-, hphase'', -, hresp', -⟩ :=
    writeOver_frame (indexes (usedBytes payload s.pend)) (payloadStored payload s)
  have hheld := writeAll_heldActive (indexes (usedBytes payload s.pend)) (s := payloadStored payload s)
    (by rwa [hsame])
  rw [hover] at hphase'' hresp'
  rw [payloadWritten, writeChunk, hover]
  dsimp only
  rw [chunkWritten_eq_closeChunk (hphase''.trans (hphase'.trans hphase))]
  refine ⟨(closeChunk_movesChunk .outWait hpend hle hheld hdrives).respond _, ?_⟩
  rw [State.respond_responses, closeChunk_responses, hresp', hresp, hpend, chunkSize_advance hle]
  simp only [Pending.advance_done_eq_len hle]

/-- Settles O22: the step is the write chunk of the state that has taken the event. -/
theorem dataOutWritesAcknowledgedChunk : Obligations.DataOutWritesAcknowledgedChunk := by
  intro s payload rest m hin hphase hleft hactive hheld hw hm hack
  have hstep := step_of_dataOut hin hphase
  obtain ⟨hmoves, hresp⟩ :=
    payloadWritten_of_acked (s := { s with inputs := rest }) hm hphase hleft ⟨hheld, hactive⟩ hw hack
  obtain ⟨hstatus, hrest, hstored, hkept⟩ := payloadWritten_frame payload (s := { s with inputs := rest }) hleft hw
  have hdrives := hmoves.drives
  refine ⟨_, hstep, hstatus, hmoves.phase, hmoves.pend.trans (Pending.advance_eq _ _), hmoves.ends, ?_, ?_, hresp, ?_,
    ?_, hrest, (step_reaches hin hstep).delays⟩
  · exact hdrives.sets.trans (by simp)
  · rw [← hack]
    exact hdrives.samples
  · rw [hm]
    exact hstored
  · rw [hm]
    exact hkept

/-- R183, R212: the byte that is not acknowledged is the last one sent, and the handler stops the bus. -/
theorem payloadWritten_of_nacked {payload : List Byte} {s : State} {j : Nat} (hw : Memory.wf s.buf)
    (hj : j < usedBytes payload s.pend)
    (hnack : nextAnswers (j + 1) s.bus = List.replicate j .low ++ [.high]) :
    (payloadWritten payload s).phase = .idle ∧ (payloadWritten payload s).pend = s.pend.advance (j + 1) ∧
      (payloadWritten payload s).bus.ReleasedIdle ∧
      Bus.Drives (writeAllSets (payload.take (j + 1)) ++ stopSets) (j + 1) s.bus (payloadWritten payload s).bus ∧
      (payloadWritten payload s).responses = s.responses ++ [.stall .dataNack] := by
  have hlen := indexes_length (usedBytes_le_cap payload s.pend)
  obtain ⟨hsame, -, -, -, hresp, -⟩ := storeOver_frame (indexes (usedBytes payload s.pend)) payload s
  obtain ⟨hdrives, hpend⟩ := writeAll_payloadStored payload hw (Nat.succ_le_of_lt hj)
  rw [← payloadStored] at hsame hresp
  have hover := writeOver_of_nacked (ks := indexes (usedBytes payload s.pend)) (s := payloadStored payload s)
    (by rwa [hlen]) (by rwa [hsame])
  obtain ⟨-, -, -, hresp', -⟩ := writeOver_frame (indexes (usedBytes payload s.pend)) (payloadStored payload s)
  rw [hover] at hresp'
  rw [payloadWritten, writeChunk, hover]
  exact ⟨rfl, hpend, Bus.stop_releasedIdle _, hdrives.trans (Bus.stop_drives _),
    congrArg (fun rs => rs ++ [Response.stall .dataNack]) (hresp'.trans hresp)⟩

/-- Settles O23: the step is the write chunk of the state that has taken the event. -/
theorem dataNackAborts : Obligations.DataNackAborts := by
  intro s payload rest m j hin hphase hleft hw hm hj hnack
  have hstep := step_of_dataOut hin hphase
  subst hm
  obtain ⟨hidle, hpend, ⟨hreleased, hbusIdle⟩, hdrives, hresp⟩ :=
    payloadWritten_of_nacked (s := { s with inputs := rest }) hw hj hnack
  obtain ⟨hstatus, hrest, hstored, hkept⟩ := payloadWritten_frame payload (s := { s with inputs := rest }) hleft hw
  refine ⟨_, hstep, hstatus, hidle, hpend.trans (Pending.advance_eq _ _), hreleased, hbusIdle, ?_, ?_, hresp, hstored,
    hkept, hrest, (step_reaches hin hstep).delays⟩
  · exact hdrives.sets.trans (by simp)
  · rw [List.append_assoc, ← hnack]
    exact hdrives.samples

/-! ### O41: the bus between host events -/

/-- The bus as a handler leaves it (R193, R134). -/
def Bus.Settled (u : Bus) : Prop := u.HeldActive ∨ u.ReleasedIdle

theorem stopIfEnd_settled {s : State} (h : s.bus.HeldActive) : (stopIfEnd s).bus.Settled := by
  have hends := stopIfEnd_ends h
  split at hends
  · exact .inr hends
  · exact .inl hends

theorem closeChunk_settled (waiting : Phase) {s : State} (h : s.bus.HeldActive) :
    (closeChunk waiting s).bus.Settled := by
  unfold closeChunk
  split
  · exact stopIfEnd_settled h
  · exact .inl h

theorem readChunk_settled {s : State} (h : s.bus.HeldActive) : (readChunk s).bus.Settled :=
  closeChunk_settled .inMore (readOver_heldActive (indexes (chunkSize s.pend)) h)

theorem chunkWritten_settled {s : State} (h : s.bus.HeldActive) : (chunkWritten s).bus.Settled := by
  unfold chunkWritten
  split
  · exact stopIfEnd_settled h
  · exact .inl h

theorem writeOver_heldActive (ks : List (Fin Config.cap)) {s : State} (h : s.bus.HeldActive) :
    (writeOver ks s).2.bus.HeldActive := by
  induction ks generalizing s with
  | nil => exact h
  | cons k ks ih =>
    have hbyte : (writeByte k s).2.bus.HeldActive := Bus.write_heldActive _ h.2
    rw [writeOver]
    split
    · exact ih hbyte
    · exact hbyte

theorem writeChunk_settled (m : Nat) {s : State} (h : s.bus.HeldActive) : (writeChunk m s).bus.Settled := by
  unfold writeChunk
  dsimp only
  split
  · exact chunkWritten_settled (writeOver_heldActive (indexes m) h)
  · exact .inr (Bus.stop_releasedIdle _)

theorem addressAcked_settled {s : State} (h : s.bus.HeldActive) : (addressAcked s).bus.Settled := by
  unfold addressAcked
  dsimp only
  split
  · exact stopIfEnd_settled (s := { s with status := addressStatus true }) h
  · split
    · exact readChunk_settled (s := { s with status := addressStatus true }) h
    · exact .inl h

/-- An I2C_IO setup settles the bus from any state. -/
theorem ioSetup_settled (b e : Bool) (f : SetupFields) (s : State) : (ioSetup b e f s).bus.Settled := by
  unfold ioSetup
  dsimp only
  split
  · exact addressAcked_settled (addressPhase_heldActive _)
  · exact .inr (Bus.stop_releasedIdle _)

/-- R252: while a data stage is open, the settled bus is the held one. -/
theorem heldActive_of_phase_ne_idle {s : State} (h : betweenEvents s) (hbus : s.bus.Settled)
    (hphase : s.phase ≠ .idle) : s.bus.HeldActive := by
  obtain ⟨-, -, hopen, -⟩ := h
  obtain ⟨hactive, -⟩ := hopen hphase
  refine hbus.resolve_right fun ⟨_, hidle⟩ => ?_
  rw [hactive] at hidle
  cases hidle

theorem onDataIn_settled {s : State} (h : betweenEvents s) (hbus : s.bus.Settled) : (onDataIn s).bus.Settled := by
  unfold onDataIn
  split
  · next hphase => exact readChunk_settled (heldActive_of_phase_ne_idle h hbus (by simp [hphase]))
  · exact hbus
  · exact hbus

theorem onDataOut_settled (bytes : List Byte) {s : State} (h : betweenEvents s) (hbus : s.bus.Settled) :
    (onDataOut bytes s).bus.Settled := by
  unfold onDataOut
  split
  · next hphase =>
    obtain ⟨hsame, -⟩ := storeOver_frame (indexes (min bytes.length (chunkSize s.pend))) bytes s
    refine writeChunk_settled _ ?_
    rw [hsame]
    exact heldActive_of_phase_ne_idle h hbus (by simp [hphase])
  · exact hbus
  · exact hbus

/-- Whatever the input, its handler leaves the bus settled. -/
theorem handleInput_settled {e : Input} {s t : State} (h : betweenEvents s) (hbus : s.bus.Settled)
    (ht : handleInput e s = .next t) : t.bus.Settled := by
  cases e with
  | reset => cases ht; exact .inr ⟨⟨rfl, rfl⟩, rfl⟩
  | host ev =>
    cases ev with
    | setup r =>
      change onSetup r s = .next t at ht
      rcases onSetup_cases r with ⟨-, a, ha⟩ | ⟨-, b, e, f, hio⟩
      · rw [ha] at ht; cases ht; exact hbus
      · rw [hio] at ht; cases ht; exact ioSetup_settled b e f s
    | dataIn => cases ht; exact onDataIn_settled h hbus
    | dataOut bytes => cases ht; exact onDataOut_settled bytes h hbus
    | statusAck => cases ht; exact hbus

/-- A settled bus is held or released, as `bus_phase` says. -/
theorem Bus.settled_iff {u : Bus} :
    u.Settled ↔ (u.busPhase = .busActive → held u) ∧ (u.busPhase = .busIdle → released u) := by
  cases hphase : u.busPhase with
  | busActive => simp [Bus.Settled, Bus.HeldActive, Bus.ReleasedIdle, hphase]
  | busIdle => simp [Bus.Settled, Bus.HeldActive, Bus.ReleasedIdle, hphase]

/-- Settles O41: a handler ends with the bus held, or with a stop; the idle bus is released by R252. -/
theorem stepKeepsBusHeldOrReleased : Obligations.StepKeepsBusHeldOrReleased := by
  intro s t hbetween hheld hstep
  have ⟨_, hreleased, _⟩ := hbetween
  have hbus : s.bus.Settled := Bus.settled_iff.mpr ⟨hheld, hreleased⟩
  rcases step_cases hstep with ⟨-, rfl⟩ | ⟨e, rest, -, ht⟩
  · exact Bus.settled_iff.mp hbus
  · exact Bus.settled_iff.mp (handleInput_settled (s := { s with inputs := rest }) hbetween hbus ht)

end Sys2Proof.Machine
end

section
/-!
PROOFS for the statements of 70_reset_and_hazards.md: the invariants between host events (O40) and their base case
(O39), the device reset (O38), waiting (O9), and how long the driver's operations wait (O35).
-/

namespace Sys2Proof.Machine

open Sys2Proof.Safety

/-! ### O40: the invariants between host events

Of the bus the invariants say less than `Bus.Settled`: inside a transaction SDA may be at either level. So the bus is
followed by `Bus.Active`, which the driver's bytes keep (`Bus.Quiet`). -/

/-- The bus and the data stage as the invariants want them (R252): the bus idle and no data stage open, or inside a
transaction, an open data stage with bytes left. -/
def Rests (s : State) : Prop :=
  (s.bus.ReleasedIdle ∧ s.phase = .idle) ∨
    (s.bus.Active ∧ (s.phase ≠ .idle → s.pend.done.toNat < s.pend.len.toNat))

/-- The status codes of R26. -/
def StatusCode (v : Byte) : Prop := v = 0#8 ∨ v = 1#8 ∨ v = 2#8

theorem betweenEvents_iff {s : State} : betweenEvents s ↔ Rests s ∧ StatusCode s.status := by
  cases hbus : s.bus.busPhase with
  | busActive => simp [betweenEvents, Rests, StatusCode, Bus.Active, Bus.ReleasedIdle, hbus, and_assoc]
  | busIdle => simp [betweenEvents, Rests, StatusCode, Bus.Active, Bus.ReleasedIdle, released, hbus, and_assoc]

theorem addressStatus_statusCode (ack : Bool) : StatusCode (addressStatus ack) := by
  cases ack with
  | true => exact .inr (.inl rfl)
  | false => exact .inr (.inr rfl)

/-- An open data stage is inside a transaction and has bytes left. -/
theorem Rests.dataStage {s : State} (h : Rests s) (hphase : s.phase ≠ .idle) :
    s.bus.Active ∧ s.pend.done.toNat < s.pend.len.toNat := by
  rcases h with ⟨-, hidle⟩ | ⟨hactive, hleft⟩
  · exact absurd hidle hphase
  · exact ⟨hactive, hleft hphase⟩

/-! #### The end of a handler -/

theorem rests_of_idle {s : State} (h : s.bus.ReleasedIdle ∨ s.bus.Active) (hphase : s.phase = .idle) : Rests s :=
  h.imp (fun hreleased => ⟨hreleased, hphase⟩) fun hactive => ⟨hactive, fun hopen => absurd hphase hopen⟩

theorem stopIfEnd_releasedIdle_or_active {s : State} (h : s.bus.Active) :
    (stopIfEnd s).bus.ReleasedIdle ∨ (stopIfEnd s).bus.Active := by
  unfold stopIfEnd
  split
  · exact .inl s.bus.stop_releasedIdle
  · exact .inr h

/-- A chunk within the length leaves bytes, or closes the transfer. -/
theorem closeChunk_rests (waiting : Phase) {s : State} (h : s.bus.Active)
    (hle : s.pend.done.toNat ≤ s.pend.len.toNat) : Rests (closeChunk waiting s) := by
  unfold closeChunk
  split
  · exact rests_of_idle (stopIfEnd_releasedIdle_or_active h) rfl
  · next hdone => exact .inr ⟨h, fun _ => Nat.lt_of_le_of_ne hle (mt BitVec.eq_of_toNat_eq hdone)⟩

theorem readChunk_rests {s : State} (h : s.bus.Active) (hleft : s.pend.done.toNat < s.pend.len.toNat) :
    Rests (readChunk s) := by
  have hle := done_add_chunkSize_le hleft
  obtain ⟨-, hactive⟩ := readOver_quiet (indexes (chunkSize s.pend)) s h
  obtain ⟨-, -, hpend, -⟩ := readOver_frame (indexes (chunkSize s.pend)) s
  refine closeChunk_rests .inMore hactive ?_
  change (Pending.advance _ (readOver _ s).pend).done.toNat ≤ _
  rw [hpend, Pending.advance_done_toNat hle]
  exact hle

/-- A write chunk within what is left closes the transfer, waits for more, or stops the bus at a NACK. -/
theorem writeChunk_rests {m : Nat} {s : State} (h : s.bus.Active) (hphase : s.phase = .outWait)
    (hleft : s.pend.done.toNat < s.pend.len.toNat) (hm : m ≤ chunkSize s.pend) : Rests (writeChunk m s) := by
  obtain ⟨-, hactive⟩ := writeOver_quiet (indexes m) s h
  obtain ⟨-, hphase', -⟩ := writeOver_frame (indexes m) s
  obtain ⟨j, hj, hpend⟩ := writeOver_pend (indexes m) s
  unfold writeChunk
  dsimp only
  split
  · rw [chunkWritten_eq_closeChunk (hphase'.trans hphase)]
    refine closeChunk_rests .outWait hactive ?_
    have hle : s.pend.done.toNat + j ≤ s.pend.len.toNat := by
      rw [indexes_length (hm.trans (chunkSize_le_cap _))] at hj
      exact (Nat.add_le_add_left (hj.trans hm) _).trans (done_add_chunkSize_le hleft)
    rw [hpend]
    exact (Pending.advance_done_toNat hle).trans_le hle
  · exact .inl ⟨Bus.stop_releasedIdle _, rfl⟩

/-! #### The handlers -/

theorem addressAcked_rests {s : State} (h : s.bus.Active) (hphase : s.phase = .idle) (hdone : s.pend.done = 0#16) :
    Rests (addressAcked s) := by
  unfold addressAcked
  dsimp only
  split
  · exact rests_of_idle (stopIfEnd_releasedIdle_or_active (s := { s with status := addressStatus true }) h) (by simpa)
  · next hlen =>
    have hleft : s.pend.done.toNat < s.pend.len.toNat := by bv_omega
    split
    · exact readChunk_rests (s := { s with status := addressStatus true }) h hleft
    · exact .inr ⟨h, fun _ => hleft⟩

/-- An I2C_IO setup rests from any state: it opens a transfer of its own. -/
theorem ioSetup_rests (b e : Bool) (f : SetupFields) (s : State) : Rests (ioSetup b e f s) := by
  obtain ⟨⟨hscl, -⟩, hactive⟩ := addressPhase_heldActive (openTransfer b e f s)
  unfold ioSetup
  dsimp only
  split
  · exact addressAcked_rests ⟨hscl, hactive⟩ rfl rfl
  · exact .inl ⟨Bus.stop_releasedIdle _, rfl⟩

theorem onDataIn_rests {s : State} (h : Rests s) : Rests (onDataIn s) := by
  unfold onDataIn
  split
  · next hphase =>
    obtain ⟨hactive, hleft⟩ := h.dataStage (by simp [hphase])
    exact readChunk_rests hactive hleft
  · exact h
  · exact h

theorem onDataOut_rests (bytes : List Byte) {s : State} (h : Rests s) : Rests (onDataOut bytes s) := by
  unfold onDataOut
  split
  · next hphase =>
    obtain ⟨hactive, hleft⟩ := h.dataStage (by simp [hphase])
    obtain ⟨hbus, -, hphase', hpend, -⟩ :=
      storeOver_frame (indexes (min bytes.length (chunkSize s.pend))) bytes s
    refine writeChunk_rests (hbus ▸ hactive) (hphase'.trans hphase) ?_ ?_
    · rwa [hpend]
    · rw [hpend]
      exact Nat.min_le_right _ _
  · exact h
  · exact h

/-- R240, R241: a device reset meets the invariants from every state. -/
theorem deviceReset_betweenEvents (s : State) : betweenEvents s.deviceReset :=
  betweenEvents_iff.mpr ⟨.inl ⟨⟨⟨rfl, rfl⟩, rfl⟩, rfl⟩, .inl rfl⟩

/-- Whatever the input, its handler keeps the invariants. -/
theorem handleInput_betweenEvents {e : Input} {s t : State} (h : betweenEvents s)
    (ht : handleInput e s = .next t) : betweenEvents t := by
  cases e with
  | reset => cases ht; exact deviceReset_betweenEvents s
  | host ev =>
    obtain ⟨hrests, hcode⟩ := betweenEvents_iff.mp h
    cases ev with
    | setup r =>
      change onSetup r s = .next t at ht
      rcases onSetup_cases r with ⟨-, a, ha⟩ | ⟨-, b, e, f, hio⟩
      · rw [ha] at ht; cases ht; exact h
      · rw [hio] at ht
        cases ht
        refine betweenEvents_iff.mpr ⟨ioSetup_rests b e f s, ?_⟩
        rw [ioSetup_status]
        exact addressStatus_statusCode _
    | dataIn => cases ht; exact betweenEvents_iff.mpr ⟨onDataIn_rests hrests, (onDataIn_status s).symm ▸ hcode⟩
    | dataOut bytes =>
      cases ht
      exact betweenEvents_iff.mpr ⟨onDataOut_rests bytes hrests, (onDataOut_status bytes s).symm ▸ hcode⟩
    | statusAck => cases ht; exact h

/-- Settles O40: a handler ends with the bus stopped, or inside a transaction with bytes left in an open data stage. -/
theorem stepKeepsBetweenEvents : Obligations.StepKeepsBetweenEvents := by
  intro s t h hstep
  rcases step_cases hstep with ⟨-, rfl⟩ | ⟨e, rest, -, ht⟩
  · exact h
  · exact handleInput_betweenEvents (s := { s with inputs := rest }) h ht

/-! ### O35: how long the driver's operations wait

Each `setLine` call waits one delay pair, and nothing else waits (R108, R261). -/

@[simp] theorem Bus.setLine_delaySum (line : Line) (lvl : Level) (u : Bus) :
    delaySum (u.setLine line lvl).trace = delaySum u.trace + (u.delayBefore + u.delayAfter) := by
  cases line <;> cases lvl <;> simp [Bus.setLine_trace, Bus.setLineEvents, delaySum]

@[simp] theorem Bus.sampleSda_delaySum (u : Bus) : delaySum u.sampleSda.2.trace = delaySum u.trace := by
  unfold Bus.sampleSda
  split <;> simp [delaySum]

theorem Bus.start_delaySum (u : Bus) :
    delaySum u.start.trace = delaySum u.trace + 2 * (u.delayBefore + u.delayAfter) := by
  simp +arith [Bus.start]

theorem Bus.repeatedStart_delaySum (u : Bus) :
    delaySum u.repeatedStart.trace = delaySum u.trace + 4 * (u.delayBefore + u.delayAfter) := by
  simp +arith [Bus.repeatedStart]

theorem Bus.stop_delaySum (u : Bus) :
    delaySum u.stop.trace = delaySum u.trace + 3 * (u.delayBefore + u.delayAfter) := by
  simp +arith [Bus.stop]

theorem Bus.writeBits_delaySum (b : Byte) (n : Nat) (u : Bus) :
    delaySum (Bus.writeBits b n u).trace = delaySum u.trace + 3 * n * (u.delayBefore + u.delayAfter) := by
  induction n generalizing u with
  | zero => simp [Bus.writeBits]
  | succ n ih =>
    rw [Bus.writeBits, ih]
    simp +arith [Bus.clockPulse, Nat.mul_add, Nat.add_mul]

theorem Bus.write_delaySum (b : Byte) (u : Bus) :
    delaySum (u.write b).2.trace = delaySum u.trace + 27 * (u.delayBefore + u.delayAfter) := by
  simp +arith [Bus.write, Bus.writeBits_delaySum]

theorem Bus.readBits_delaySum (n : Nat) (v : Byte) (u : Bus) :
    delaySum (Bus.readBits n v u).2.trace = delaySum u.trace + 2 * n * (u.delayBefore + u.delayAfter) := by
  induction n generalizing v u with
  | zero => simp [Bus.readBits]
  | succ n ih =>
    rw [Bus.readBits, ih]
    simp +arith [Nat.mul_add, Nat.add_mul]

theorem Bus.read_delaySum (isLast : Bool) (u : Bus) :
    delaySum (u.read isLast).2.trace = delaySum u.trace + 22 * (u.delayBefore + u.delayAfter) := by
  simp +arith [Bus.read, Bus.clockPulse, Bus.readBits_delaySum]

/-- Settles O35: the number of `setLine` calls in each operation is the number of delay pairs it waits. -/
theorem driverOperationsDelayBySetLineCount : Obligations.DriverOperationsDelayBySetLineCount := fun u =>
  ⟨u.start_delaySum, u.repeatedStart_delaySum, u.stop_delaySum, fun b => u.write_delaySum b,
    fun isLast => u.read_delaySum isLast⟩

/-! ### O9, O38, O39: waiting and reset -/

/-- Settles O9: a step with nothing to take is the wait. -/
theorem noInputMeansWaiting : Obligations.NoInputMeansWaiting := fun _ => step_of_nil

/-- Settles O38: the step takes the reset, whose handler computes each slot's reset value again. -/
theorem deviceResetReinitialisesSlots : Obligations.DeviceResetReinitialisesSlots := fun _ _ hin =>
  ⟨_, step_of_cons hin, rfl, rfl, rfl, rfl, rfl, rfl, rfl, rfl, rfl, rfl, rfl, rfl, rfl⟩

/-- Settles O39: the reset state is what a device reset makes of it. -/
theorem resetMeetsInvariants : Obligations.ResetMeetsInvariants :=
  ⟨deviceReset_betweenEvents State.reset, (fun hactive => nomatch hactive), State.reset_buf_wf⟩

end Sys2Proof.Machine
end
